-- ==== Sys2Proof/Word.lean ====
section
/-! DEFINITION. The words of the JUTF7 codec block: the element types of its four streams
(spec/20_memory.md R51), the two command word formats (spec/30_encoding.md R70) and the names of its two
units (spec/00_scope.md R2). -/

namespace Sys2Proof

/-- One element of the ENC output and DEC input streams (R51): 8 bits. -/
abbrev Byte := BitVec 8

/-- One element of the ENC input and DEC output streams (R18, R51): 16 bits, unsigned. -/
abbrev CodeUnit := BitVec 16

/-- A 6-bit value, one base64 character's payload (R17). -/
abbrev Sextet := BitVec 6

/-- A command word of format `ENC` (R71): 18 bits. -/
abbrev EncWord := BitVec 18

/-- A command word of format `DEC` (R72): 10 bits. -/
abbrev DecWord := BitVec 10

/-- The two units of the block (R2). -/
inductive UnitId where
  | enc
  | dec
deriving DecidableEq, Repr

/-- A command word together with the port it is presented at: each unit has a port of its own, and the
formats are told apart by the port, not by a bit of the word (R70, D2). -/
inductive CommandWord where
  | enc (w : EncWord)
  | dec (w : DecWord)
deriving DecidableEq, Repr

end Sys2Proof
end

