-- ==== Sys2Proof/Syntax.lean ====
section
/-! DEFINITION. The command set (spec/00_scope.md R3): one constructor per row of
spec/opcode_table.json. The operand `space` is no part of a command word (spec/30_encoding.md R73): it is
an input of the unit and stands in `Machine.State`. -/

namespace Sys2Proof

/-- The six commands of the block (R3). Every value of an operand is legal (R81, R122). -/
inductive Instr where
  /-- `ENC_PUT cu`: encode one code unit (R123). -/
  | encPut (cu : CodeUnit)
  /-- `ENC_FLUSH`: close any open run (R134). -/
  | encFlush
  /-- `ENC_RESET`: return the encoder to its just-constructed state (R121). -/
  | encReset
  /-- `DEC_PUT b`: decode one byte (R153). -/
  | decPut (b : Byte)
  /-- `DEC_FLUSH`: tell the decoder the input has ended (R176). -/
  | decFlush
  /-- `DEC_RESET`: return the decoder to its just-constructed state (R151). -/
  | decReset
deriving DecidableEq, Repr

end Sys2Proof
end

