-- ==== Sys2Proof/Decode.lean ====
section
/-! DEFINITION. The decoder of command words, total on every word of either port (spec/30_encoding.md R70 to
R72, R78, R79), then the encoder, the assembler's words (R80, R86), and the words as spec/opcode_table.json
numbers their bits. -/

namespace Sys2Proof

/-- Why a command word is rejected: it has the reserved `op` value `11` (R79), at the named unit's port. -/
inductive DecodeError where
  | reservedEnc
  | reservedDec
deriving DecidableEq, Repr

/-- The unit at whose port the reserved word was presented. -/
def DecodeError.unit : DecodeError → UnitId
  | .reservedEnc => .enc
  | .reservedDec => .dec

/-- The field `op` of an `ENC` word, bits 17:16 (R71). -/
def encOpField (w : EncWord) : BitVec 2 := w.extractLsb' 16 2

/-- The field `cu` of an `ENC` word, bits 15:0, unsigned (R71, R77). -/
def encCuField (w : EncWord) : CodeUnit := w.extractLsb' 0 16

/-- The field `op` of a `DEC` word, bits 9:8 (R72). -/
def decOpField (w : DecWord) : BitVec 2 := w.extractLsb' 8 2

/-- The field `byte` of a `DEC` word, bits 7:0, unsigned (R72, R77). -/
def decByteField (w : DecWord) : Byte := w.extractLsb' 0 8

/-- The command an `ENC` word selects (R71, R78); `op = 11` is reserved (R79). The field `cu` of
`ENC_FLUSH` and `ENC_RESET` is ignored (R80). -/
def decodeEnc (w : EncWord) : Except DecodeError Instr :=
  if encOpField w = 0b00#2 then .ok (.encPut (encCuField w))
  else if encOpField w = 0b01#2 then .ok .encFlush
  else if encOpField w = 0b10#2 then .ok .encReset
  else .error .reservedEnc

/-- The command a `DEC` word selects (R72, R78); `op = 11` is reserved (R79). The field `byte` of
`DEC_FLUSH` and `DEC_RESET` is ignored (R80). -/
def decodeDec (w : DecWord) : Except DecodeError Instr :=
  if decOpField w = 0b00#2 then .ok (.decPut (decByteField w))
  else if decOpField w = 0b01#2 then .ok .decFlush
  else if decOpField w = 0b10#2 then .ok .decReset
  else .error .reservedDec

/-- The command a word presented at a port selects. -/
def decode : CommandWord → Except DecodeError Instr
  | .enc w => decodeEnc w
  | .dec w => decodeDec w

/-- The word the assembler writes (R78, R86); an ignored field is written as zero (R80). -/
def encode : Instr → CommandWord
  | .encPut cu => .enc (0b00#2 ++ cu)
  | .encFlush => .enc (0b01#2 ++ 0#16)
  | .encReset => .enc (0b10#2 ++ 0#16)
  | .decPut b => .dec (0b00#2 ++ b)
  | .decFlush => .dec (0b01#2 ++ 0#8)
  | .decReset => .dec (0b10#2 ++ 0#8)

/-- The port word of a row of spec/opcode_table.json whose bits are `w`. A row of format `DEC` has 10 bits
(at most 16 in whole bytes), a row of format `ENC` has 18 (24 in whole bytes), so `nbits` tells the port.
A number that does not fit the port's width is no command word. -/
def tableWord (nbits w : Nat) : Option CommandWord :=
  if nbits ≤ 16 then
    if w < 2 ^ 10 then some (.dec (BitVec.ofNat 10 w)) else none
  else
    if w < 2 ^ 18 then some (.enc (BitVec.ofNat 18 w)) else none

/-- The instruction the decoder reads from a table row's word, numbered as the table numbers its bits. -/
def decodeTableWord (nbits w : Nat) : Option Instr :=
  match tableWord nbits w with
  | none => none
  | some cw =>
    match decode cw with
    | .ok i => some i
    | .error _ => none

end Sys2Proof
end

