-- ==== Sys2Proof/Config.lean ====
section
/-! DEFINITION. What an instance of the block fixes for its whole life: the configuration `CFG`
(spec/10_state.md R22), its two constituent records (the style and the Base64 table), the open width
parameters (spec/00_scope.md R7), and the free values: result fields to which the spec gives no meaning
(spec/93_implementation_defined.md U6). The values of the canonical styles, the checks and the lookups
stand in Machine/Styles.lean, Checks.lean and Tables.lean. -/

namespace Sys2Proof

/-- A style descriptor (R8, R22): shift byte, unshift byte, strictness, direct set. -/
structure Style where
  /-- `CFG.SHIFT`. -/
  shift : Byte
  /-- `CFG.UNSHIFT`. -/
  unshift : Byte
  /-- `CFG.STRICT`. -/
  strict : Bool
  /-- `CFG.DIRECT`: bit `c` is set when code unit `c` is direct (R24). -/
  direct : BitVec 128
deriving DecidableEq, Repr

/-- A Base64 table (R22, R28, R29), as `TBL_NEW` builds it (R101). -/
structure Table where
  /-- `CFG.ALPHA`: the character at each 6-bit value. -/
  alpha : List Byte
  /-- `CFG.REV`: the 6-bit value of each byte `0..127`, or `none` for "absent". -/
  rev : List (Option Sextet)
deriving DecidableEq, Repr

/-- The configuration `CFG`, a record of six fields (R22). No command writes any of them (R22, R65). -/
structure Cfg where
  /-- `CFG.SHIFT`, 8 bits. -/
  shift : Byte
  /-- `CFG.UNSHIFT`, 8 bits. -/
  unshift : Byte
  /-- `CFG.STRICT`, 1 bit. -/
  strict : Bool
  /-- `CFG.DIRECT`, 128 x 1 bit. -/
  direct : BitVec 128
  /-- `CFG.ALPHA`, 64 x 8 bits (64 entries by W1 of R31). -/
  alpha : List Byte
  /-- `CFG.REV`, 128 x (valid bit and 6 value bits) (128 entries by W2 of R31). -/
  rev : List (Option Sextet)
deriving DecidableEq, Repr

/-- The width parameters the spec leaves OPEN (R7, D10, D13). -/
structure Params where
  /-- `CNTW`: the width of the saturating counter `D.cnt` (R39). -/
  cntw : Nat
  /-- `POSW`: the width of `D.inpos`, `D.malpos` and `pos` (R42); `none` is "unbounded". -/
  posw : Option Nat
deriving DecidableEq, Repr

namespace Config

/-- Free value: the byte on output lane `lane` of an ENC result when `lane >= nout` (R74, U6), at the
unit's `draw`-th command. Nothing constrains it. DESIGN CHOICE (notes/assumptions/1.md), safe. -/
opaque freeLane (lane draw : Nat) : Byte

/-- Free value: the field `out` of a DEC result when `nout = 0` (R75, U6), at the unit's `draw`-th command.
Nothing constrains it. DESIGN CHOICE (notes/assumptions/1.md), safe. -/
opaque freeOut (draw : Nat) : CodeUnit

/-- Free value: the field `pos` of a DEC result when the status is not `MALFORMED` (R75, U6), at the unit's
`draw`-th command, before it is cut to `POSW` bits. Nothing constrains it. DESIGN CHOICE
(notes/assumptions/1.md), safe. -/
opaque freePos (draw : Nat) : Nat

end Config

end Sys2Proof
end

