-- ==== Sys2Proof/Machine/Styles.lean ====
section
/-! DEFINITION. The three canonical styles and their alphabets (spec/10_state.md R23 to R30), the reverse
table `TBL_NEW` fills (spec/40_tables.md R101), and the default width parameters (spec/00_scope.md R7). -/

namespace Sys2Proof.Machine

/-- `v` as a byte. -/
def byteOf (v : Nat) : Byte := BitVec.ofNat 8 v

/-- The 62 characters common to both alphabets: `A..Z`, `a..z`, `0..9` (R30). -/
def alphaCommon : List Byte :=
  (List.range 26).map (fun v => byteOf (0x41 + v)) ++
    (List.range 26).map (fun v => byteOf (0x61 + v)) ++
    (List.range 10).map (fun v => byteOf (0x30 + v))

/-- The alphabet of S1 and S2: index 62 is "+" and 63 is "/" (R30). The spec marks 59 of the 64 entries as
general knowledge (G1); the model takes them from R30. -/
def alphaS1 : List Byte := alphaCommon ++ [0x2B#8, 0x2F#8]

/-- The alphabet of S3: index 62 is "+" and 63 is "," (R30). -/
def alphaS3 : List Byte := alphaCommon ++ [0x2B#8, 0x2C#8]

/-- `for v: REV[ALPHA[v]] <- some v`, from index `v` on (R101). -/
def fillRev : List Byte → Nat → List (Option Sextet) → List (Option Sextet)
  | [], _, rev => rev
  | a :: as, v, rev => fillRev as (v + 1) (rev.set a.toNat (some (BitVec.ofNat 6 v)))

/-- The reverse table of an alphabet: all 128 entries absent, then one entry per character (R29, R101). -/
def revOf (alpha : List Byte) : List (Option Sextet) :=
  fillRev alpha 0 (List.replicate 128 none)

/-- The direct set of S1, 75 members (R25). -/
def directS1 : BitVec 128 := 0x07FFFFFE07FFFFFE87FFF38100002600#128

/-- The direct set of S2, 95 members (R26). -/
def directS2 : BitVec 128 := 0x3FFFFFFFEFFFFFFFFFFFF7FF00002600#128

/-- The direct set of S3: the spec takes the explicit list, which equals that of S1 (R27, D21). -/
def directS3 : BitVec 128 := 0x07FFFFFE07FFFFFE87FFF38100002600#128

/-- Style S1, UTF-7 (mandatory set only) (R23, R25). -/
def styleS1 : Style := { shift := 0x2B#8, unshift := 0x2D#8, strict := false, direct := directS1 }

/-- Style S2, UTF-7 (optional set included) (R23, R26). -/
def styleS2 : Style := { shift := 0x2B#8, unshift := 0x2D#8, strict := false, direct := directS2 }

/-- Style S3, Modified UTF-7 (mailbox names) (R23, R27). -/
def styleS3 : Style := { shift := 0x26#8, unshift := 0x2D#8, strict := true, direct := directS3 }

/-- The configuration made of a style and a table (R22, R243). -/
def cfgOf (st : Style) (t : Table) : Cfg :=
  { shift := st.shift, unshift := st.unshift, strict := st.strict, direct := st.direct,
    alpha := t.alpha, rev := t.rev }

/-- `CFG` of style S1 with its canonical alphabet. -/
def cfgS1 : Cfg := cfgOf styleS1 { alpha := alphaS1, rev := revOf alphaS1 }

/-- `CFG` of style S2 with its canonical alphabet. -/
def cfgS2 : Cfg := cfgOf styleS2 { alpha := alphaS1, rev := revOf alphaS1 }

/-- `CFG` of style S3 with its canonical alphabet. -/
def cfgS3 : Cfg := cfgOf styleS3 { alpha := alphaS3, rev := revOf alphaS3 }

/-- The defaults of R7: `CNTW = 16`, and `POSW` unbounded, as the spec says for a model (D10, D13). -/
def defaultParams : Params := { cntw := 16, posw := none }

end Sys2Proof.Machine
end

