-- ==== Sys2Proof/Machine/Checks.lean ====
section
/-! DEFINITION. Which configurations and width parameters the rules speak of: W1 to W6 (spec/10_state.md
R31) and the bounds of spec/00_scope.md R7; and that the three canonical configurations satisfy them. -/

namespace Sys2Proof.Machine

/-- `CFG.ALPHA[v]` as a table read (R11). By W1 every 6-bit index is inside the table, so the default is
never read. -/
def alphaAt (c : Cfg) (v : Nat) : Byte := c.alpha.getD v 0#8

/-- `CFG.REV[b]` as a table read (R11). By W2 every index `0..127` is inside the table. -/
def revAt (c : Cfg) (b : Nat) : Option Sextet := c.rev.getD b none

/-- W1 (R31): `CFG.ALPHA` has 64 entries, pairwise distinct, each `< 128`. -/
abbrev CfgW1 (c : Cfg) : Prop :=
  c.alpha.length = 64 ∧ c.alpha.Nodup ∧ ∀ a ∈ c.alpha, a.toNat < 128

/-- W2 (R31, R29): `CFG.REV` has 128 entries and is the inverse of `CFG.ALPHA`. -/
abbrev CfgW2 (c : Cfg) : Prop :=
  c.rev.length = 128 ∧
    (∀ v < 64, revAt c (alphaAt c v).toNat = some (BitVec.ofNat 6 v)) ∧
    (∀ b < 128, byteOf b ∉ c.alpha → revAt c b = none)

/-- W3 (R31): `CFG.SHIFT < 128` and `CFG.UNSHIFT < 128`. -/
abbrev CfgW3 (c : Cfg) : Prop := c.shift.toNat < 128 ∧ c.unshift.toNat < 128

/-- W4 (R31): the shift byte is not direct. -/
abbrev CfgW4 (c : Cfg) : Prop := c.direct.getLsbD c.shift.toNat = false

/-- W5 (R31): the shift and unshift bytes differ. -/
abbrev CfgW5 (c : Cfg) : Prop := c.shift ≠ c.unshift

/-- W6 (R31): the unshift byte is not a base64 character. -/
abbrev CfgW6 (c : Cfg) : Prop := revAt c c.unshift.toNat = none

/-- A configuration to which the rules of the spec give a meaning (R31). -/
abbrev CfgWF (c : Cfg) : Prop := CfgW1 c ∧ CfgW2 c ∧ CfgW3 c ∧ CfgW4 c ∧ CfgW5 c ∧ CfgW6 c

/-- The width parameters are at least 1 (R7, R39). -/
abbrev ParamsWF (p : Params) : Prop := 1 ≤ p.cntw ∧ ∀ w ∈ p.posw, 1 ≤ w

/-- The check of bring-up (R31, R103, R243): W1 to W6 and the widths. -/
def setupOk (c : Cfg) (p : Params) : Bool := decide (CfgWF c ∧ ParamsWF p)

theorem alphaS1_nodup : alphaS1.Nodup := by decide +kernel

theorem alphaS3_nodup : alphaS3.Nodup := by decide +kernel

/-- The canonical table of S1 and S2 satisfies W1, whatever the style. -/
theorem cfgW1_of_alphaS1 (st : Style) : CfgW1 (cfgOf st { alpha := alphaS1, rev := revOf alphaS1 }) :=
  ⟨by show alphaS1.length = 64; decide +kernel, alphaS1_nodup,
    by show ∀ a ∈ alphaS1, a.toNat < 128; decide +kernel⟩

/-- The canonical table of S3 satisfies W1, whatever the style. -/
theorem cfgW1_of_alphaS3 (st : Style) : CfgW1 (cfgOf st { alpha := alphaS3, rev := revOf alphaS3 }) :=
  ⟨by show alphaS3.length = 64; decide +kernel, alphaS3_nodup,
    by show ∀ a ∈ alphaS3, a.toNat < 128; decide +kernel⟩

/-- The canonical table of S1 and S2 satisfies W2, whatever the style. -/
theorem cfgW2_of_alphaS1 (st : Style) : CfgW2 (cfgOf st { alpha := alphaS1, rev := revOf alphaS1 }) :=
  ⟨by show (revOf alphaS1).length = 128; decide +kernel,
    by
      show ∀ v < 64, (revOf alphaS1).getD (alphaS1.getD v 0#8).toNat none = some (BitVec.ofNat 6 v)
      decide +kernel,
    by
      show ∀ b < 128, byteOf b ∉ alphaS1 → (revOf alphaS1).getD b none = none
      decide +kernel⟩

/-- The canonical table of S3 satisfies W2, whatever the style. -/
theorem cfgW2_of_alphaS3 (st : Style) : CfgW2 (cfgOf st { alpha := alphaS3, rev := revOf alphaS3 }) :=
  ⟨by show (revOf alphaS3).length = 128; decide +kernel,
    by
      show ∀ v < 64, (revOf alphaS3).getD (alphaS3.getD v 0#8).toNat none = some (BitVec.ofNat 6 v)
      decide +kernel,
    by
      show ∀ b < 128, byteOf b ∉ alphaS3 → (revOf alphaS3).getD b none = none
      decide +kernel⟩

/-- S1 satisfies W1 to W6 (R31). -/
theorem cfgS1_wf : CfgWF cfgS1 :=
  ⟨cfgW1_of_alphaS1 styleS1, cfgW2_of_alphaS1 styleS1, by decide +kernel, by decide +kernel,
    by decide +kernel, by decide +kernel⟩

/-- S2 satisfies W1 to W6 (R31). -/
theorem cfgS2_wf : CfgWF cfgS2 :=
  ⟨cfgW1_of_alphaS1 styleS2, cfgW2_of_alphaS1 styleS2, by decide +kernel, by decide +kernel,
    by decide +kernel, by decide +kernel⟩

/-- S3 satisfies W1 to W6 (R31). -/
theorem cfgS3_wf : CfgWF cfgS3 :=
  ⟨cfgW1_of_alphaS3 styleS3, cfgW2_of_alphaS3 styleS3, by decide +kernel, by decide +kernel,
    by decide +kernel, by decide +kernel⟩

/-- A configuration and widths that satisfy the rules' conditions pass the check. -/
theorem setupOk_of_wf {c : Cfg} {p : Params} (hc : CfgWF c) (hp : ParamsWF p) : setupOk c p = true :=
  decide_eq_true ⟨hc, hp⟩

theorem defaultParams_wf : ParamsWF defaultParams := by
  refine ⟨by decide, ?_⟩
  intro w hw
  cases hw

end Sys2Proof.Machine
end

