-- ==== Sys2Proof/Machine/State.lean ====
section
/-! DEFINITION. The state of the block as plain data: the configuration, the encoder state `E`, the decoder
state `D` (spec/10_state.md), the inputs and results of the two command ports (spec/30_encoding.md R73 to
R75), the streams (spec/20_memory.md R51), and the reasons a step can stop. -/

namespace Sys2Proof.Machine

/-- What the host fixes when it brings an instance up (R243), with the check it makes (R31, R103): the rules
are about a well-formed `CFG` only, and a `Setup` cannot be built over another, nor over a width of 0. -/
structure Setup where
  /-- `CFG` (R22). -/
  cfg : Cfg
  /-- `CNTW` and `POSW` (R7). -/
  par : Params
  /-- W1 to W6, and the widths at least 1. -/
  ok : setupOk cfg par = true
deriving DecidableEq, Repr

/-- The mode of a unit (R14, R34, R38). -/
inductive Mode where
  | direct
  | base64
deriving DecidableEq, Repr

/-- How a command ends (R76, R210). -/
inductive Status where
  | ok
  | overflow
  | malformed
  | badcmd
deriving DecidableEq, Repr

/-- The encoder state `E` (R33). -/
structure EncState where
  /-- `E.mode`, 1 bit (R34). -/
  mode : Mode
  /-- `E.pending`, the number of bits not yet put out: 0, 2 or 4 between commands (R35). A count, so a
  number; its field has at least 3 bits, and R37 bounds it. -/
  pending : Nat
  /-- `E.acc`, 6 bits: the pending bits left-aligned over zeros (R36). -/
  acc : Sextet
deriving DecidableEq, Repr

/-- The decoder state `D` (R38). -/
structure DecState where
  /-- `D.mode`, 1 bit (R38). -/
  mode : Mode
  /-- `D.bits`, the number of bits buffered: even, `0..14`, stored in 4 bits (R40, R44). -/
  bits : Nat
  /-- `D.acc`, 16 bits: the buffered bits right-aligned under zeros (R41). -/
  acc : BitVec 16
  /-- `D.cnt`, code units drained in the current run, saturating at `2^CNTW - 1` (R39). -/
  cnt : Nat
  /-- `D.mal`, 1 bit, the sticky malformed flag (R43). -/
  mal : Bool
  /-- `D.malpos`, `POSW` bits, the position of the latest `MALFORMED` (R43). -/
  malpos : Nat
  /-- `D.inpos`, `POSW` bits, the number of accepted bytes (R42). -/
  inpos : Nat
deriving DecidableEq, Repr

/-- The result of an ENC command (R74). -/
structure EncResult where
  status : Status
  /-- Number of output bytes, 2 bits; 0 unless the status is `OK`. -/
  nout : BitVec 2
  /-- The output lanes in stream order; a lane at index `>= nout` carries no meaning. -/
  out0 : Byte
  out1 : Byte
  out2 : Byte
deriving DecidableEq, Repr

/-- The result of a DEC command (R75). -/
structure DecResult where
  status : Status
  /-- Number of output code units, 1 bit; 0 unless the status is `OK`. -/
  nout : BitVec 1
  /-- The output code unit when `nout = 1`; no meaning otherwise. -/
  out : CodeUnit
  /-- `errlen`: 1 when the status is `MALFORMED`, 0 otherwise. -/
  errlen : Nat
  /-- `pos`, `POSW` bits: `D.inpos` when the status is `MALFORMED`; no meaning otherwise. -/
  pos : Nat
deriving DecidableEq, Repr

/-- A command as the host presents it: the word at its unit's port and the `space` promise (R15, R73). -/
structure Command where
  word : CommandWord
  space : Nat
deriving DecidableEq, Repr

/-- The whole state of one block instance with both units (R2). -/
structure State where
  /-- `CFG` (R22), `CNTW` and `POSW` (R7): read by the commands, written by none (R65, R255). -/
  setup : Setup
  /-- `E` (R33). -/
  enc : EncState
  /-- `D` (R38). -/
  dec : DecState
  /-- The model's own: the commands the host has still to present, oldest first. They hold both input
  streams (R51). DESIGN CHOICE (notes/assumptions/2.md). -/
  cmds : List Command
  /-- ENC's input `space`, in bytes, as presented with its latest command (R73). -/
  encSpace : Nat
  /-- DEC's input `space`, in code units, as presented with its latest command (R73). -/
  decSpace : Nat
  /-- The result of the latest ENC command (R74). -/
  encRes : EncResult
  /-- The result of the latest DEC command (R75). -/
  decRes : DecResult
  /-- The ENC output stream: every byte delivered so far, in order (R12, R51, R61). -/
  encOut : List Byte
  /-- The DEC output stream: every code unit delivered so far, in order (R12, R51, R61). -/
  decOut : List CodeUnit
  /-- The model's own: the number of ENC commands ended, which indexes the free values of ENC's results. -/
  encDraw : Nat
  /-- The model's own: the number of DEC commands ended, which indexes the free values of DEC's results. -/
  decDraw : Nat
deriving DecidableEq, Repr

/-- Why the machine stops with a fault. -/
inductive Fault where
  /-- `ConstructionError` (R101, R214): raised by `tblNew` and `construct` when an alphabet does not have
  64 characters, has a character `>= 128` or a duplicate. "fatal, not recoverable, must prevent instance
  creation": no state exists, so no command ever meets it. Safe. -/
  | constructionError
deriving DecidableEq, Repr

/-- Why the model has no meaning for a situation. -/
inductive Refusal where
  /-- Raised by an arm of `exec` whose instruction has no meaning yet (none is left). Safe. -/
  | notModelled (mnemonic : String)
  /-- Raised by `construct` for a `CFG` that breaks W3 to W6 or a width parameter of 0: "a model refuses any
  other" (R31, R103, R259, U3; R7 for the widths). No instance exists, so no command meets it. Safe. -/
  | illFormedCfg
deriving DecidableEq, Repr

/-- The just-constructed encoder state (R47). -/
def encInit : EncState := { mode := .direct, pending := 0, acc := 0#6 }

/-- The just-constructed decoder state (R47, D18). -/
def decInit : DecState :=
  { mode := .direct, bits := 0, acc := 0#16, cnt := 0, mal := false, malpos := 0, inpos := 0 }

/-- What an ENC result port shows before any command has ended: no output. The spec states no value.
DESIGN CHOICE (notes/assumptions/3.md), unsafe. -/
def encResInit : EncResult := { status := .ok, nout := 0#2, out0 := 0#8, out1 := 0#8, out2 := 0#8 }

/-- What a DEC result port shows before any command has ended: no output. The spec states no value.
DESIGN CHOICE (notes/assumptions/3.md), unsafe. -/
def decResInit : DecResult := { status := .ok, nout := 0#1, out := 0#16, errlen := 0, pos := 0 }

/-- `CFG` of the instance (R10). -/
abbrev State.cfg (s : State) : Cfg := s.setup.cfg

/-- The width parameters of the instance (R7). -/
abbrev State.par (s : State) : Params := s.setup.par

/-- An instance of style S1 with the default widths. -/
def setupS1 : Setup := { cfg := cfgS1, par := defaultParams, ok := setupOk_of_wf cfgS1_wf defaultParams_wf }

/-- An instance of style S2 with the default widths. -/
def setupS2 : Setup := { cfg := cfgS2, par := defaultParams, ok := setupOk_of_wf cfgS2_wf defaultParams_wf }

/-- An instance of style S3 with the default widths. -/
def setupS3 : Setup := { cfg := cfgS3, par := defaultParams, ok := setupOk_of_wf cfgS3_wf defaultParams_wf }

/-- The two units as constructed over a configuration (R47, R240): power-on equals construction equals
reset. -/
def State.fresh (setup : Setup) : State :=
  { setup, enc := encInit, dec := decInit, cmds := [], encSpace := 0, decSpace := 0,
    encRes := encResInit, decRes := decResInit, encOut := [], decOut := [], encDraw := 0, decDraw := 0 }

/-- The machine right after reset (R47). `CFG` is no reset state (R47, R241): the instance shown here is one
of style S1 with the default widths. DESIGN CHOICE (notes/assumptions/4.md), unsafe. -/
def State.reset : State := State.fresh setupS1

end Sys2Proof.Machine
end

