-- ==== Sys2Proof/Machine/Flags.lean ====
section
/-! DEFINITION. The flags and codes of the block: the bit values of the modes (spec/10_state.md R34, R38), the
status codes (spec/30_encoding.md R76), the three flags as bits (R45), and the two counters that can reach
their top (spec/42_decoder.md R171). -/

namespace Sys2Proof.Machine

/-- The bit value of a mode: `Direct` is 0 and `Base64` is 1 (R34, R38). -/
def modeBit : Mode → BitVec 1
  | .direct => 0#1
  | .base64 => 1#1

/-- The code of a status (R76, R210). -/
def statusCode : Status → BitVec 2
  | .ok => 0#2
  | .overflow => 1#2
  | .malformed => 2#2
  | .badcmd => 3#2

/-- The flag `E.mode` as a bit (R45). -/
def flagEncMode (s : State) : BitVec 1 := modeBit s.enc.mode

/-- The flag `D.mode` as a bit (R45). -/
def flagDecMode (s : State) : BitVec 1 := modeBit s.dec.mode

/-- The flag `D.mal` as a bit (R43, R45). -/
def flagDecMal (s : State) : BitVec 1 := BitVec.ofBool s.dec.mal

/-- One more code unit in the run: `min(D.cnt + 1, 2^CNTW - 1)` (R39, R153). -/
def cntNext (p : Params) (cnt : Nat) : Nat := min (cnt + 1) (2 ^ p.cntw - 1)

/-- A position cut to `POSW` bits: modulo `2^POSW`, or itself when `POSW` is unbounded (R42). -/
def posWrap (p : Params) (n : Nat) : Nat :=
  match p.posw with
  | none => n
  | some w => n % 2 ^ w

/-- One more accepted byte (R42). -/
def posNext (p : Params) (inpos : Nat) : Nat := posWrap p (inpos + 1)

end Sys2Proof.Machine
end

