-- ==== Sys2Proof/Machine/Tables.lean ====
section
/-! DEFINITION. The operations on the configuration (spec/40_tables.md): `TBL_NEW`, the four
lookups, and bring-up (spec/70_reset_and_hazards.md R243). All are pure functions (R100). -/

namespace Sys2Proof.Machine

/-- `TBL_NEW(alphabet)` (R101): the three tests, then both tables. -/
def tblNew (alphabet : List Nat) : Except Fault Table :=
  if alphabet.length ≠ 64 then .error .constructionError
  else if ∃ x ∈ alphabet, 128 ≤ x then .error .constructionError
  else if ¬ alphabet.Nodup then .error .constructionError
  else .ok { alpha := alphabet.map byteOf, rev := revOf (alphabet.map byteOf) }

/-- `value_of(b)` (R104): a byte `>= 128` is absent without a lookup. -/
def valueOf (c : Cfg) (b : Byte) : Option Sextet :=
  if 128 ≤ b.toNat then none else revAt c b.toNat

/-- `char_of(v)` (R105). -/
def charOf (c : Cfg) (v : Sextet) : Byte := alphaAt c v.toNat

/-- `contains(b)` (R106). -/
def contains (c : Cfg) (b : Byte) : Bool := (valueOf c b).isSome

/-- `direct(cu)` (R107): a code unit `>= 128` is never direct. -/
def isDirect (c : Cfg) (cu : CodeUnit) : Bool :=
  if 128 ≤ cu.toNat then false else c.direct.getLsbD cu.toNat

/-- Bring-up (R243): build the table, fill `CFG` from the style, check it, and construct the units. A bad
alphabet is a `ConstructionError` (R101, R214); a `CFG` that fails W1 to W6, or a width of 0, is refused
(R31, R103). -/
def construct (st : Style) (alphabet : List Nat) (par : Params) : Host.Outcome State Fault Refusal :=
  match tblNew alphabet with
  | .error f => .fault f
  | .ok t =>
    if h : setupOk (cfgOf st t) par = true then
      .next (State.fresh { cfg := cfgOf st t, par := par, ok := h })
    else .refused .illFormedCfg

end Sys2Proof.Machine
end

