-- ==== Sys2Proof/Machine/Operands.lean ====
section
/-! DEFINITION. Operands and their assembly: widening and narrowing between bytes and code units
(spec/30_encoding.md R77), the packing of code units into sextets (spec/41_encoder.md R129), the unpacking of
sextets into code units (spec/42_decoder.md R160), the leftover test (R161), and the encoder's unshift rule
(R126). -/

namespace Sys2Proof.Machine

/-- `zext_16(b)` (R9, R77). -/
def unitOfByte (b : Byte) : CodeUnit := b.setWidth 16

/-- `cu[7:0]` (R9, R77). -/
def lowByte (cu : CodeUnit) : Byte := cu.extractLsb' 0 8

/-- What `pack` answers: the sextets to put out, then the new `E.pending` and `E.acc` (R129). -/
structure Packed where
  chars : List Sextet
  pending : Nat
  acc : Sextet
deriving DecidableEq, Repr

/-- The working number `buf` of `pack`: the pending bits, then the code unit (R129). -/
def packBuf (p : Nat) (a : Sextet) (cu : CodeUnit) : Nat :=
  ((a.toNat >>> (6 - p)) <<< 16) ||| cu.toNat

/-- `pack(p, a, cu)` (R129): sextets most significant first; the rest left-aligned. -/
def pack (p : Nat) (a : Sextet) (cu : CodeUnit) : Packed :=
  let n := p + 16
  let buf := packBuf p a cu
  let k := n / 6
  let p' := n - 6 * k
  { chars := (List.range k).map (fun i => BitVec.ofNat 6 ((buf >>> (n - 6 * (i + 1))) &&& 0x3F))
    pending := p'
    acc := BitVec.ofNat 6 ((buf <<< (6 - p')) &&& 0x3F) }

/-- What `unpack` answers: the code unit drained, if any, then the new `D.bits` and `D.acc` (R160). -/
structure Unpacked where
  unit : Option CodeUnit
  bits : Nat
  acc : BitVec 16
deriving DecidableEq, Repr

/-- `unpack(n0, a, s)` (R160). -/
def unpack (n0 : Nat) (a : BitVec 16) (s : Sextet) : Unpacked :=
  let t := (a.toNat <<< 6) ||| s.toNat
  let n := n0 + 6
  if 16 ≤ n then
    let n' := n - 16
    { unit := some (BitVec.ofNat 16 ((t >>> n') &&& 0xFFFF))
      bits := n'
      acc := BitVec.ofNat 16 (t &&& ((1 <<< n') - 1)) }
  else
    { unit := none, bits := n, acc := BitVec.ofNat 16 t }

/-- `pad_ok()` (R161): 0, 2 or 4 leftover bits, all zero. -/
def padOk (d : DecState) : Bool :=
  (d.bits == 0 || d.bits == 2 || d.bits == 4) && d.acc == 0#16

/-- `need_unshift(cu)` (R126). -/
def needUnshift (c : Cfg) (cu : CodeUnit) : Bool :=
  c.strict || contains c (lowByte cu) || cu == unitOfByte c.unshift

end Sys2Proof.Machine
end

