-- ==== Sys2Proof/Machine/Ops.lean ====
section
/-! DEFINITION. The shared operations over the state: the result formats (spec/30_encoding.md R74, R75),
delivery of output (spec/00_scope.md R12, spec/20_memory.md R60, R61), taking a fault outcome
(spec/60_exceptions.md R219), ending a command, and presenting a command at a unit's port (R73). The block has no addressed memory
and no register file (R20, R50), so there is no other access operation; and no return from a fault, since
none exists (R221): after a fault outcome the unit is ready for its next command. -/

namespace Sys2Proof.Machine

/-- How an ENC command ends (R13): `OK` with the new `E` and the output list, or a fault status. -/
inductive EncEnd where
  | ok (e : EncState) (out : List Byte)
  | fault (st : Status)
deriving DecidableEq, Repr

/-- How a DEC command ends (R13): `OK` with the new `D` and at most one code unit, or a fault status. -/
inductive DecEnd where
  | ok (d : DecState) (out : Option CodeUnit)
  | fault (st : Status)
deriving DecidableEq, Repr

/-- The result of an ENC command (R74): the output list fills the lanes from `out0` on, and a lane at index
`>= nout` is a free value (U6). -/
def encResultOf (st : Status) (out : List Byte) (draw : Nat) : EncResult :=
  { status := st
    nout := BitVec.ofNat 2 out.length
    out0 := out.getD 0 (Config.freeLane 0 draw)
    out1 := out.getD 1 (Config.freeLane 1 draw)
    out2 := out.getD 2 (Config.freeLane 2 draw) }

/-- The result of a DEC command that ends `OK` (R75): `out` is a free value when nothing is put out, and
`pos` is one (U6). -/
def decResultOk (p : Params) (out : Option CodeUnit) (draw : Nat) : DecResult :=
  { status := .ok
    nout := BitVec.ofBool out.isSome
    out := out.getD (Config.freeOut draw)
    errlen := 0
    pos := posWrap p (Config.freePos draw) }

/-- The result of a DEC command that ends with a fault status (R75, R215): `errlen` and `pos` report a
`MALFORMED`; for another status `errlen` is 0 and `pos` is a free value (U6). -/
def decResultFault (p : Params) (st : Status) (inpos draw : Nat) : DecResult :=
  { status := st
    nout := 0#1
    out := Config.freeOut draw
    errlen := if st = .malformed then 1 else 0
    pos := if st = .malformed then inpos else posWrap p (Config.freePos draw) }

/-- The bytes a result delivers: its first `nout` lanes, in order (R74, R261). -/
def EncResult.outputs (r : EncResult) : List Byte := [r.out0, r.out1, r.out2].take r.nout.toNat

/-- The code units a result delivers (R75, R261). -/
def DecResult.outputs (r : DecResult) : List CodeUnit := [r.out].take r.nout.toNat

/-- What a fault outcome records in `D` (R175, R215, R219): a `MALFORMED` sets `D.mal` and copies `D.inpos`
to `D.malpos`; any other status records nothing (R211, R213). -/
def decAfterFault (st : Status) (d : DecState) : DecState :=
  if st = .malformed then { d with mal := true, malpos := d.inpos } else d

/-- A fault outcome (R219), the one operation for every status, command and unit: the result shows the
status and `nout = 0`, `MALFORMED` makes its records, nothing is put out and nothing else changes. -/
def takeFault (u : UnitId) (st : Status) (s : State) : State :=
  match u with
  | .enc => { s with encRes := encResultOf st [] s.encDraw, encDraw := s.encDraw + 1 }
  | .dec =>
    { s with
      dec := decAfterFault st s.dec
      decRes := decResultFault s.par st s.dec.inpos s.decDraw
      decDraw := s.decDraw + 1 }

/-- The end of an ENC command: on `OK` all writes of `E` take effect together (R10) and the output list is
delivered whole (R12, R60). -/
def finishEnc (x : EncEnd) (s : State) : State :=
  match x with
  | .ok e out =>
    { s with
      enc := e
      encRes := encResultOf .ok out s.encDraw
      encOut := s.encOut ++ out
      encDraw := s.encDraw + 1 }
  | .fault st => takeFault .enc st s

/-- The end of a DEC command: on `OK` all writes of `D` take effect together (R10) and the code unit, if
any, is delivered (R12, R60). -/
def finishDec (x : DecEnd) (s : State) : State :=
  match x with
  | .ok d out =>
    { s with
      dec := d
      decRes := decResultOk s.par out s.decDraw
      decOut := s.decOut ++ out.toList
      decDraw := s.decDraw + 1 }
  | .fault st => takeFault .dec st s

/-- The `space` promise stands at the input of the unit whose port the command is presented at (R73). -/
def present (c : Command) (s : State) : State :=
  match c.word with
  | .enc _ => { s with encSpace := c.space }
  | .dec _ => { s with decSpace := c.space }

/-- The `space` a command line has when it names none: 4 for ENC, 1 for DEC (R86). -/
def defaultSpace : CommandWord → Nat
  | .enc _ => 4
  | .dec _ => 1

end Sys2Proof.Machine
end

