-- ==== Sys2Proof/Machine/Decoder.lean ====
section
/-! DEFINITION. The decoder unit DEC: `DEC_PUT`, `DEC_FLUSH`, `DEC_RESET` (spec/42_decoder.md). -/

namespace Sys2Proof.Machine

/-- `D` with its run closed: Direct mode, no bits, no count (R153). -/
def closeRun (d : DecState) : DecState :=
  { d with mode := .direct, bits := 0, acc := 0#16, cnt := 0 }

/-- `D` with a new run open (R155). -/
def openRun (d : DecState) : DecState :=
  { d with mode := .base64, bits := 0, acc := 0#16, cnt := 0 }

/-- One more byte accepted (R42). -/
def accept (p : Params) (d : DecState) : DecState :=
  { d with inpos := posNext p d.inpos }

/-- `direct_byte(b, space)` (R153, R155, R156). -/
def directByte (c : Cfg) (p : Params) (d : DecState) (b : Byte) (space : Nat) : DecEnd :=
  if b = c.shift then .ok (accept p (openRun d)) none
  else if space < 1 then .fault .overflow
  else .ok (accept p d) (some (unitOfByte b))

/-- Base64 mode, a base64 character of value `v` (R158, R159, R160). -/
def decChar (p : Params) (d : DecState) (v : Sextet) (space : Nat) : DecEnd :=
  if 16 ≤ d.bits + 6 ∧ space < 1 then .fault .overflow
  else
    let r := unpack d.bits d.acc v
    .ok
      (accept p
        { d with
          bits := r.bits
          acc := r.acc
          cnt := if r.unit.isSome then cntNext p d.cnt else d.cnt })
      r.unit

/-- Base64 mode, the unshift byte: the explicit close (R162, R163, R164). -/
def decUnshift (c : Cfg) (p : Params) (d : DecState) (space : Nat) : DecEnd :=
  if d.bits = 0 ∧ d.cnt = 0 then
    if space < 1 then .fault .overflow
    else .ok (accept p { d with mode := .direct }) (some (unitOfByte c.shift))
  else if padOk d then .ok (accept p (closeRun d)) none
  else .fault .malformed

/-- Base64 mode, a byte `< 128` that is neither a base64 character nor the unshift byte (R165 to R168). -/
def decForeign (c : Cfg) (p : Params) (d : DecState) (b : Byte) (space : Nat) : DecEnd :=
  if c.strict then .fault .malformed
  else if d.cnt = 0 then .fault .malformed
  else if ¬ padOk d then .fault .malformed
  else directByte c p (closeRun d) b space

/-- `DEC_PUT b, space` (R153). -/
def decPut (c : Cfg) (p : Params) (d : DecState) (b : Byte) (space : Nat) : DecEnd :=
  if 128 ≤ b.toNat then .fault .malformed
  else
    match d.mode with
    | .direct => directByte c p d b space
    | .base64 =>
      match valueOf c b with
      | some v => decChar p d v space
      | none => if b = c.unshift then decUnshift c p d space else decForeign c p d b space

/-- `DEC_FLUSH` (R176, R177). -/
def decFlush (d : DecState) : DecEnd :=
  match d.mode with
  | .base64 => .fault .malformed
  | .direct => .ok d none

/-- `DEC_PUT` (R153). -/
def execDecPut (b : Byte) (s : State) : Host.Outcome State Fault Refusal :=
  .next (finishDec (decPut s.cfg s.par s.dec b s.decSpace) s)

/-- `DEC_FLUSH` (R176). -/
def execDecFlush (s : State) : Host.Outcome State Fault Refusal :=
  .next (finishDec (decFlush s.dec) s)

/-- `DEC_RESET` (R151): every field of `D` at its just-constructed value. -/
def execDecReset (s : State) : Host.Outcome State Fault Refusal :=
  .next
    (finishDec
      (.ok { mode := .direct, bits := 0, acc := 0#16, cnt := 0, mal := false, malpos := 0, inpos := 0 } none)
      s)

end Sys2Proof.Machine
end

