-- ==== Sys2Proof/Machine/Encoder.lean ====
section
/-! DEFINITION. The encoder unit ENC: `ENC_PUT`, `ENC_FLUSH`, `ENC_RESET` (spec/41_encoder.md). -/

namespace Sys2Proof.Machine

/-- `ENC_WORST` (R7, R124). -/
def encWorst : Nat := 4

/-- `ENC_FLUSH_WORST` (R7, R135). -/
def encFlushWorst : Nat := 2

/-- The padding character of an open run: present exactly when bits are pending, whatever their value
(R125, R134, C2). -/
def padChar (c : Cfg) (e : EncState) : List Byte :=
  if e.pending ≠ 0 then [charOf c e.acc] else []

/-- Class DIR (R125): padding character, unshift byte by R126, then the code unit's byte. -/
def encDirect (c : Cfg) (e : EncState) (cu : CodeUnit) : EncEnd :=
  match e.mode with
  | .direct => .ok e [lowByte cu]
  | .base64 =>
    .ok { mode := .direct, pending := 0, acc := 0#6 }
      (padChar c e ++ (if needUnshift c cu then [c.unshift] else []) ++ [lowByte cu])

/-- Class OTH, or SHF in Base64 mode (R128): the shift byte when entering, then the packed characters. -/
def encPacked (c : Cfg) (e : EncState) (cu : CodeUnit) : EncEnd :=
  let r := pack e.pending e.acc cu
  .ok { mode := .base64, pending := r.pending, acc := r.acc }
    ((match e.mode with
      | .direct => [c.shift]
      | .base64 => []) ++ r.chars.map (charOf c))

/-- `ENC_PUT cu, space` (R123). -/
def encPut (c : Cfg) (e : EncState) (cu : CodeUnit) (space : Nat) : EncEnd :=
  if space < encWorst then .fault .overflow
  else if isDirect c cu then encDirect c e cu
  else if cu = unitOfByte c.shift ∧ e.mode = .direct then .ok e [c.shift, c.unshift]
  else encPacked c e cu

/-- `ENC_FLUSH space` (R134). -/
def encFlush (c : Cfg) (e : EncState) (space : Nat) : EncEnd :=
  match e.mode with
  | .direct => .ok e []
  | .base64 =>
    if space < encFlushWorst then .fault .overflow
    else .ok { mode := .direct, pending := 0, acc := 0#6 } (padChar c e ++ [c.unshift])

/-- `ENC_PUT` (R123). -/
def execEncPut (cu : CodeUnit) (s : State) : Host.Outcome State Fault Refusal :=
  .next (finishEnc (encPut s.cfg s.enc cu s.encSpace) s)

/-- `ENC_FLUSH` (R134). -/
def execEncFlush (s : State) : Host.Outcome State Fault Refusal :=
  .next (finishEnc (encFlush s.cfg s.enc s.encSpace) s)

/-- `ENC_RESET` (R121): `space` is not read and nothing is put out. -/
def execEncReset (s : State) : Host.Outcome State Fault Refusal :=
  .next (finishEnc (.ok { mode := .direct, pending := 0, acc := 0#6 } []) s)

end Sys2Proof.Machine
end

