-- ==== Sys2Proof/Machine/Dispatch.lean ====
section
/-! DEFINITION. The meaning of each command: one arm per constructor of `Instr`, each one direct call. -/

namespace Sys2Proof.Machine

def exec (i : Instr) (s : State) : Host.Outcome State Fault Refusal :=
  match i with
  | .encPut cu => Sys2Proof.Machine.execEncPut cu s
  | .encFlush => Sys2Proof.Machine.execEncFlush s
  | .encReset => Sys2Proof.Machine.execEncReset s
  | .decPut b => Sys2Proof.Machine.execDecPut b s
  | .decFlush => Sys2Proof.Machine.execDecFlush s
  | .decReset => Sys2Proof.Machine.execDecReset s

end Sys2Proof.Machine
end

