-- ==== Sys2Proof/Machine/Port.lean ====
section
/-! DEFINITION. A unit takes one command (spec/20_memory.md R58): the port's inputs are driven, the word is
decoded and carried out; a reserved word ends `BADCMD` (spec/30_encoding.md R79, spec/60_exceptions.md
R213). Also the placing of a table row's word as the next command. -/

namespace Sys2Proof.Machine

/-- One command at its unit's port, from its inputs to its result (R58, R73, R79, R262). `BADCMD` comes
before everything else of a command (R218). -/
def runCommand (c : Command) (s : State) : Host.Outcome State Fault Refusal :=
  match decode c.word with
  | .ok i => exec i (present c s)
  | .error e => .next (takeFault e.unit .badcmd (present c s))

/-- The host issues an instruction as the assembler writes it, with a `space` promise (R15, R86). -/
def issue (i : Instr) (space : Nat) (s : State) : Host.Outcome State Fault Refusal :=
  runCommand { word := encode i, space := space } s

/-- A table row's word becomes the next command the host presents, with the default `space` of R86; a number
that is no command word changes nothing. -/
def placeWord (nbits w : Nat) (s : State) : State :=
  match tableWord nbits w with
  | none => s
  | some cw => { s with cmds := { word := cw, space := defaultSpace cw } :: s.cmds }

end Sys2Proof.Machine
end

