-- ==== Sys2Proof/Machine/Step.lean ====
section
/-! DEFINITION. One step of the block: the execution of one command (spec/00_scope.md R18). -/

namespace Sys2Proof.Machine

/-- A step takes the oldest command the host has to present and runs it (R18, R58, R61). Without a command
the units do nothing and keep their state (R235). -/
def step (s : State) : Host.Outcome State Fault Refusal :=
  match s.cmds with
  | [] => .next s
  | c :: rest => runCommand c { s with cmds := rest }

/-- `s` with a table row's word as the next command; see notes/assumptions/2.md for how a program comes to
run. -/
def State.withFetchWord (s : State) (nbits w : Nat) : State := placeWord nbits w s

end Sys2Proof.Machine
end

