-- ==== Sys2Proof/Machine/CallContract.lean ====
section
/-! DEFINITION. The buffer-level call contract (spec/43_call_contract.md): the six pseudo-instructions
`ENC_STR`, `ENC_BUF`, `ENC_END`, `DEC_STR`, `DEC_BUF`, `DEC_END` as the loops of commands the host runs
(spec/30_encoding.md R87), and the two whole-stream functions of R197. None has a command word. -/

namespace Sys2Proof.Machine

/-- The result of a buffer-level call (R190). -/
inductive CallResult where
  | underflow
  | overflow
  | malformed (len pos : Nat)
deriving DecidableEq, Repr

/-- What a buffer-level call tells the host (R190), and the state it leaves. -/
structure Call (α : Type) where
  result : CallResult
  consumed : Nat
  produced : List α
  state : State
deriving DecidableEq, Repr

/-- A call's outcome: a call stops where one of its commands does. -/
abbrev CallOutcome (α : Type) : Type := Host.Outcome (Call α) Fault Refusal

/-- The `space` promised to the next command of a call: what is left of a capacity, or, when the capacity is
unbounded, a number that is never short (R87, R191, R194). -/
def roomLeft (cap : Option Nat) (produced unboundedSpace : Nat) : Nat :=
  match cap with
  | none => unboundedSpace
  | some n => n - produced

/-- The loop of `ENC_BUF` (R191) from unit `i` on. -/
def encBufFrom (cap : Option Nat) : List CodeUnit → Nat → List Byte → State → CallOutcome Byte
  | [], i, produced, s => .next { result := .underflow, consumed := i, produced := produced, state := s }
  | u :: us, i, produced, s =>
    match issue (.encPut u) (roomLeft cap produced.length 4) s with
    | .next t =>
      if t.encRes.status = .overflow then
        .next { result := .overflow, consumed := i, produced := produced, state := t }
      else encBufFrom cap us (i + 1) (produced ++ t.encRes.outputs) t
    | .fault f => .fault f
    | .refused r => .refused r

/-- `ENC_BUF units, cap=n`: the document's `encode` (R191). -/
def encBuf (units : List CodeUnit) (cap : Nat) (s : State) : CallOutcome Byte :=
  encBufFrom (some cap) units 0 [] s

/-- `ENC_STR`: `ENC_BUF` with an unbounded capacity, each `ENC_PUT` with `space=4` (R87, R191). -/
def encStr (units : List CodeUnit) (s : State) : CallOutcome Byte :=
  encBufFrom none units 0 [] s

/-- `ENC_END cap=n`: one `ENC_FLUSH`; `OK` maps to `Underflow`, `OVERFLOW` to `Overflow` (R192). -/
def encEnd (cap : Nat) (s : State) : CallOutcome Byte :=
  match issue .encFlush cap s with
  | .next t =>
    .next
      { result := if t.encRes.status = .overflow then .overflow else .underflow
        consumed := 0, produced := t.encRes.outputs, state := t }
  | .fault f => .fault f
  | .refused r => .refused r

/-- The loop of `DEC_BUF` (R194) from byte `i` on. -/
def decBufFrom (cap : Option Nat) : List Byte → Nat → List CodeUnit → State → CallOutcome CodeUnit
  | [], i, produced, s => .next { result := .underflow, consumed := i, produced := produced, state := s }
  | b :: bs, i, produced, s =>
    match issue (.decPut b) (roomLeft cap produced.length 1) s with
    | .next t =>
      if t.decRes.status = .overflow then
        .next { result := .overflow, consumed := i, produced := produced, state := t }
      else if t.decRes.status = .malformed then
        .next { result := .malformed 1 i, consumed := i, produced := produced, state := t }
      else decBufFrom cap bs (i + 1) (produced ++ t.decRes.outputs) t
    | .fault f => .fault f
    | .refused r => .refused r

/-- `DEC_BUF bytes, cap=n, end=e`: the document's `decode`. The flag `end_of_input` is not used (R173,
R194). -/
def decBuf (bytes : List Byte) (cap : Nat) (_endOfInput : Bool) (s : State) : CallOutcome CodeUnit :=
  decBufFrom (some cap) bytes 0 [] s

/-- `DEC_STR`: `DEC_BUF` with an unbounded capacity, each `DEC_PUT` with `space=1` (R87, R194). -/
def decStr (bytes : List Byte) (s : State) : CallOutcome CodeUnit :=
  decBufFrom none bytes 0 [] s

/-- `DEC_END`: one `DEC_FLUSH`; `OK` maps to `Underflow`, `MALFORMED` to `Malformed(len = 1)` (R195). The
position is the one the command reports (R75). `DEC_FLUSH` does not read `space` (R176). -/
def decEnd (s : State) : CallOutcome CodeUnit :=
  match issue .decFlush 1 s with
  | .next t =>
    .next
      { result :=
          if t.decRes.status = .malformed then .malformed t.decRes.errlen t.decRes.pos else .underflow
        consumed := 0, produced := t.decRes.outputs, state := t }
  | .fault f => .fault f
  | .refused r => .refused r

/-- `enc(s)` of R197: `ENC_RESET; ENC_STR units; ENC_END`, with room for the flush (2 places, R135). -/
def encAll (units : List CodeUnit) (s : State) : CallOutcome Byte :=
  match issue .encReset 4 s with
  | .next s1 =>
    match encStr units s1 with
    | .next c =>
      match encEnd 2 c.state with
      | .next e =>
        .next
          { result := e.result, consumed := c.consumed, produced := c.produced ++ e.produced,
            state := e.state }
      | .fault f => .fault f
      | .refused r => .refused r
    | .fault f => .fault f
    | .refused r => .refused r
  | .fault f => .fault f
  | .refused r => .refused r

/-- `dec(t)` of R197: `DEC_RESET; DEC_STR bytes; DEC_END`; the result is the first status met that is not
`OK`, or `Underflow`. -/
def decAll (bytes : List Byte) (s : State) : CallOutcome CodeUnit :=
  match issue .decReset 1 s with
  | .next s1 =>
    match decStr bytes s1 with
    | .next c =>
      if c.result = .underflow then
        match decEnd c.state with
        | .next e =>
          .next
            { result := e.result, consumed := c.consumed, produced := c.produced ++ e.produced,
              state := e.state }
        | .fault f => .fault f
        | .refused r => .refused r
      else .next c
    | .fault f => .fault f
    | .refused r => .refused r
  | .fault f => .fault f
  | .refused r => .refused r

end Sys2Proof.Machine
end

