-- ==== Sys2Proof/Safety.lean ====
section
/-! DEFINITION. The terms the claims use: the invariants of the two units (spec/10_state.md R37, R44), what a
command delivers or leaves when it ends (spec/20_memory.md R60, spec/60_exceptions.md R219), the frames, the
view of one unit (spec/20_memory.md R61, R62), runs of commands, and the bit layout of a run
(spec/30_encoding.md R83). -/

namespace Sys2Proof.Machine

/-- The encoder invariant (R37). -/
def EncInv (e : EncState) : Prop :=
  (e.pending = 0 ∨ e.pending = 2 ∨ e.pending = 4) ∧
    e.acc.toNat % 2 ^ (6 - e.pending) = 0 ∧
    (e.mode = .direct → e.pending = 0 ∧ e.acc = 0#6)

/-- A position fits its `POSW` bits (R42). -/
def PosFits (p : Params) (n : Nat) : Prop := ∀ w ∈ p.posw, n < 2 ^ w

/-- The decoder invariant (R44), with the widths of its counters (R39, R42, R43). -/
def DecInv (p : Params) (d : DecState) : Prop :=
  (d.bits % 2 = 0 ∧ d.bits ≤ 14) ∧
    d.acc.toNat < 2 ^ d.bits ∧
    (d.mode = .direct → d.bits = 0 ∧ d.acc = 0#16 ∧ d.cnt = 0) ∧
    (d.mode = .base64 → d.cnt = 0 → d.bits = 0 ∨ d.bits = 6 ∨ d.bits = 12) ∧
    d.cnt ≤ 2 ^ p.cntw - 1 ∧
    PosFits p d.inpos ∧ PosFits p d.malpos

/-- Every byte of a list has bit 7 clear (R137). -/
def SevenBit (l : List Byte) : Prop := ∀ b ∈ l, b.toNat < 128

/-- The invariant of the whole machine: both units' own, and a 7-bit-clean output stream. -/
def Inv (s : State) : Prop := EncInv s.enc ∧ DecInv s.par s.dec ∧ SevenBit s.encOut

/-- Everything of ENC is as before: its state, result, output stream, `space` input and command count. -/
def EncUntouched (s t : State) : Prop :=
  t.enc = s.enc ∧ t.encRes = s.encRes ∧ t.encOut = s.encOut ∧ t.encSpace = s.encSpace ∧
    t.encDraw = s.encDraw

/-- Everything of DEC is as before. -/
def DecUntouched (s t : State) : Prop :=
  t.dec = s.dec ∧ t.decRes = s.decRes ∧ t.decOut = s.decOut ∧ t.decSpace = s.decSpace ∧
    t.decDraw = s.decDraw

/-- What every ENC command leaves: all of DEC, the configuration, the widths, the host's commands and
ENC's own `space` input. (Left open: `E`, ENC's result, output stream and command count.) -/
def EncFrame (s t : State) : Prop :=
  DecUntouched s t ∧ t.setup = s.setup ∧ t.cmds = s.cmds ∧ t.encSpace = s.encSpace

/-- What every DEC command leaves. (Left open: `D`, DEC's result, output stream and command count.) -/
def DecFrame (s t : State) : Prop :=
  EncUntouched s t ∧ t.setup = s.setup ∧ t.cmds = s.cmds ∧ t.decSpace = s.decSpace

/-- An ENC command ended `OK` and put out exactly `out` (R60, R74). -/
def EncDelivers (s t : State) (out : List Byte) : Prop :=
  t.encRes.status = .ok ∧ t.encRes.nout.toNat = out.length ∧ t.encRes.outputs = out ∧
    t.encOut = s.encOut ++ out

/-- An ENC command ended with the fault status `st`: nothing put out, `E` unchanged (R211, R213, R219). -/
def EncFaulted (s t : State) (st : Status) : Prop :=
  t.encRes.status = st ∧ t.encRes.nout = 0#2 ∧ t.encOut = s.encOut ∧ t.enc = s.enc

/-- A DEC command ended `OK` and put out exactly `out` (R60, R75). -/
def DecDelivers (s t : State) (out : Option CodeUnit) : Prop :=
  t.decRes.status = .ok ∧ t.decRes.nout = BitVec.ofBool out.isSome ∧ t.decRes.outputs = out.toList ∧
    t.decRes.errlen = 0 ∧ t.decOut = s.decOut ++ out.toList

/-- A DEC command ended with a fault status that records nothing: nothing put out, `D` unchanged (R211,
R213, R219). -/
def DecFaulted (s t : State) (st : Status) : Prop :=
  t.decRes.status = st ∧ t.decRes.nout = 0#1 ∧ t.decRes.errlen = 0 ∧ t.decOut = s.decOut ∧ t.dec = s.dec

/-- A DEC command ended `MALFORMED`: length 1, position `D.inpos`, both diagnostics written, nothing put out
and nothing else of `D` changed (R175, R215). -/
def DecMalformed (s t : State) : Prop :=
  t.decRes.status = .malformed ∧ t.decRes.nout = 0#1 ∧ t.decRes.errlen = 1 ∧
    t.decRes.pos = s.dec.inpos ∧ t.decOut = s.decOut ∧
    t.dec = { s.dec with mal := true, malpos := s.dec.inpos }

/-- `D.mode`, `D.bits`, `D.acc` and `D.cnt` are as before: the run, if one is open, goes on unchanged. -/
def SameRun (d d' : DecState) : Prop :=
  d'.mode = d.mode ∧ d'.bits = d.bits ∧ d'.acc = d.acc ∧ d'.cnt = d.cnt

/-- `D.mal` and `D.malpos` are as before. -/
def SameDiagnostics (d d' : DecState) : Prop := d'.mal = d.mal ∧ d'.malpos = d.malpos

/-- The unit at whose port a command is presented. -/
def Command.unit (c : Command) : UnitId :=
  match c.word with
  | .enc _ => .enc
  | .dec _ => .dec

/-- The status of a unit's latest command. -/
def unitStatus (u : UnitId) (s : State) : Status :=
  match u with
  | .enc => s.encRes.status
  | .dec => s.decRes.status

/-- All that belongs to one ENC unit, with the shared configuration. -/
def encView (s : State) : Setup × EncState × EncResult × List Byte × Nat × Nat :=
  (s.setup, s.enc, s.encRes, s.encOut, s.encSpace, s.encDraw)

/-- All that belongs to one DEC unit, with the shared configuration. -/
def decView (s : State) : Setup × DecState × DecResult × List CodeUnit × Nat × Nat :=
  (s.setup, s.dec, s.decRes, s.decOut, s.decSpace, s.decDraw)

/-- The run that presents exactly the commands `cs`, one a step. -/
def runCommands (cs : List Command) (s : State) : Host.Outcome State Fault Refusal :=
  Host.Core.run Sys2Proof.core cs.length { s with cmds := cs }

/-- The 16 bits of a code unit in the order they enter a run: bit 15 first (R55, R83). -/
def unitBits (u : CodeUnit) : List Bool := (List.range 16).map fun i => u.getLsbD (15 - i)

/-- The bit string of a run (R83). -/
def runBits (us : List CodeUnit) : List Bool := us.flatMap unitBits

/-- The sextet whose bits are the given ones, first bit in bit 5, zeros below when there are fewer than six
(R83). -/
def sextetOfBits (l : List Bool) : Sextet :=
  BitVec.ofNat 6 ((List.range 6).foldl (fun a i => 2 * a + (l.getD i false).toNat) 0)

/-- A bit string cut into sextets from its start, the last padded with zero bits (R55, R83). -/
def sextetsOf : List Bool → List Sextet
  | [] => []
  | b0 :: b1 :: b2 :: b3 :: b4 :: b5 :: rest => sextetOfBits [b0, b1, b2, b3, b4, b5] :: sextetsOf rest
  | short => [sextetOfBits short]

end Sys2Proof.Machine
end

