-- ==== Sys2Proof/WellFormed.lean ====
section
/-! DEFINITION. Which instructions are well formed. Every value of every operand field is a legal operand
(spec/30_encoding.md R81, spec/41_encoder.md R122) and the operand types have exactly the fields' widths, so
no instruction is ill formed. The checks the spec does give are on the configuration (spec/10_state.md R31,
W1 to W6) and on the alphabet (spec/40_tables.md R101): they stand in Machine/Checks.lean and
Machine/Tables.lean, where a later repair can mend them. -/

namespace Sys2Proof

/-- Every instruction is well formed: each operand has its field's width (R71, R72) and every value of the
field is legal (R81, R122). -/
def Instr.wf : Instr → Bool
  | .encPut _ => true
  | .encFlush => true
  | .encReset => true
  | .decPut _ => true
  | .decFlush => true
  | .decReset => true

end Sys2Proof
end

