-- ==== Sys2Proof/Certificates/Slice0/Obligations.lean ====
section
/-! DEFINITION. The statements about the model, for the provers. A docstring names the spec's rule; where the
clause rests on a decision the spec marks as its own (spec/92_eei_decisions.md D<n>), on a rule the spec
marks as derived, or on a choice of the model (notes/assumptions/<n>.md), it says so. -/

open Sys2Proof Sys2Proof.Machine

/-! ## Command words and the step -/

/-- Decode and encode agree, in both directions: every well-formed instruction's word decodes to it; a word
that decodes differs from the assembler's word of its instruction in ignored bits only (an ignored field of a
FLUSH or RESET word written as zero gives that word); a word is rejected exactly when its `op` is `11`.
(R71, R72, R78 to R80, R86; the word formats are the spec's own decision D2, D17, D23.) -/
def Obligations.DecodeAndEncodeAgree : Prop :=
  (∀ i : Instr, i.wf = true → decode (encode i) = .ok i) ∧
    (∀ (w : EncWord) (i : Instr), decode (.enc w) = .ok i →
      encode i = .enc (if w.toNat < 2 ^ 16 then w else w &&& 0x30000#18)) ∧
    (∀ (w : DecWord) (i : Instr), decode (.dec w) = .ok i →
      encode i = .dec (if w.toNat < 2 ^ 8 then w else w &&& 0x300#10)) ∧
    (∀ w : EncWord, decode (.enc w) = .error .reservedEnc ↔ 0x30000 ≤ w.toNat) ∧
    (∀ w : DecWord, decode (.dec w) = .error .reservedDec ↔ 0x300 ≤ w.toNat)

/-- The opcode map (R78): a word selects the row whose `match` it equals under the row's `mask`; the operand
is the word's low field. (The bit patterns are the spec's own decision D2.) -/
def Obligations.OpcodeMapSelectsRows : Prop :=
  (∀ w : EncWord,
    (w &&& 0x30000#18 = 0x00000#18 ↔ ∃ cu, decode (.enc w) = .ok (.encPut cu)) ∧
      (w &&& 0x30000#18 = 0x10000#18 ↔ decode (.enc w) = .ok .encFlush) ∧
      (w &&& 0x30000#18 = 0x20000#18 ↔ decode (.enc w) = .ok .encReset) ∧
      (∀ cu, decode (.enc w) = .ok (.encPut cu) → cu.toNat = w.toNat % 2 ^ 16)) ∧
    (∀ w : DecWord,
      (w &&& 0x300#10 = 0x000#10 ↔ ∃ b, decode (.dec w) = .ok (.decPut b)) ∧
        (w &&& 0x300#10 = 0x100#10 ↔ decode (.dec w) = .ok .decFlush) ∧
        (w &&& 0x300#10 = 0x200#10 ↔ decode (.dec w) = .ok .decReset) ∧
        (∀ b, decode (.dec w) = .ok (.decPut b) → b.toNat = w.toNat % 2 ^ 8))

/-- Words written out from the spec's encoding (spec/95_test_vectors.md section 2.8) decode to the commands
they stand for. (The encoding is the spec's own decision D2.) -/
def Obligations.SampleWordsDecode : Prop :=
  decode (.enc 0x02262#18) = .ok (.encPut 0x2262#16) ∧
    decode (.enc 0x0FFFF#18) = .ok (.encPut 0xFFFF#16) ∧
    decode (.enc 0x1ABCD#18) = .ok .encFlush ∧
    decode (.enc 0x2FFFF#18) = .ok .encReset ∧
    decode (.enc 0x30041#18) = .error .reservedEnc ∧
    decode (.dec 0x026#10) = .ok (.decPut 0x26#8) ∧
    decode (.dec 0x1FF#10) = .ok .decFlush ∧
    decode (.dec 0x200#10) = .ok .decReset ∧
    decode (.dec 0x341#10) = .error .reservedDec

/-- A step runs the decoded instruction: where the host's oldest command decodes to a well-formed `i`, the
step is `exec i` at the state with that command taken from the host's list and its `space` at its unit's
input, nothing else moved. (How commands reach the units is the model's own choice,
notes/assumptions/2.md.) -/
def Obligations.StepRunsTheDecodedInstruction : Prop :=
  ∀ (s : State) (c : Command) (rest : List Command) (i : Instr),
    s.cmds = c :: rest → decode c.word = .ok i → i.wf = true →
      step s = exec i (present c { s with cmds := rest }) ∧
        (present c { s with cmds := rest }).cmds = rest ∧
        (c.unit = .enc → present c { s with cmds := rest } = { s with cmds := rest, encSpace := c.space }) ∧
        (c.unit = .dec → present c { s with cmds := rest } = { s with cmds := rest, decSpace := c.space })

/-- A table row's word placed as the next command is what the very next step runs, with the default `space`
of R86. (Placing a word is the model's own operation, notes/assumptions/2.md.) -/
def Obligations.PlacedWordRunsNext : Prop :=
  ∀ (s : State) (nbits w : Nat) (i : Instr),
    decodeTableWord nbits w = some i →
      ∃ cw, tableWord nbits w = some cw ∧ decode cw = .ok i ∧
        step (s.withFetchWord nbits w) = exec i (present { word := cw, space := defaultSpace cw } s)

/-- A reserved word ends `BADCMD`: the status is reported at the word's unit, nothing is put out, neither
`E` nor `D` changes (`D.mal` included), the other unit is untouched. (R79, R213; `BADCMD` is the spec's own
decision D17. That the word leaves the host's list is the model's, notes/assumptions/2.md.) -/
def Obligations.ReservedWordEndsBadcmd : Prop :=
  (∀ (s : State) (w : EncWord) (n : Nat) (rest : List Command),
    s.cmds = { word := .enc w, space := n } :: rest → 0x30000 ≤ w.toNat →
      ∃ t, step s = .next t ∧ EncFaulted s t .badcmd ∧ DecUntouched s t ∧ t.setup = s.setup ∧
        t.encSpace = n ∧ t.cmds = rest) ∧
    (∀ (s : State) (w : DecWord) (n : Nat) (rest : List Command),
      s.cmds = { word := .dec w, space := n } :: rest → 0x300 ≤ w.toNat →
        ∃ t, step s = .next t ∧ DecFaulted s t .badcmd ∧ EncUntouched s t ∧ t.setup = s.setup ∧
          t.decSpace = n ∧ t.cmds = rest)

/-- A machine that receives no command does nothing and keeps its state, the whole of it (R235). -/
def Obligations.NoCommandKeepsTheState : Prop :=
  ∀ s : State, s.cmds = [] → step s = .next s

/-- Reset leaves the just-constructed state in both units (R47; the zeros of `D.cnt`, `D.mal`, `D.malpos` and
`D.inpos` are the spec's own decision D18), for every configuration a unit is built over, with nothing put
out. `State.reset` is the instance of style S1: the model's choice, notes/assumptions/4.md. -/
def Obligations.ResetStateIsJustConstructed : Prop :=
  (∀ u : Setup,
    (State.fresh u).enc = { mode := .direct, pending := 0, acc := 0#6 } ∧
      (State.fresh u).dec =
        { mode := .direct, bits := 0, acc := 0#16, cnt := 0, mal := false, malpos := 0, inpos := 0 } ∧
      (State.fresh u).encOut = [] ∧ (State.fresh u).decOut = [] ∧ (State.fresh u).setup = u) ∧
    State.reset = State.fresh setupS1

/-- The invariant holds at reset, over every configuration (R37, R44, marked derived by the spec). -/
def Obligations.InvariantHoldsAtReset : Prop :=
  Inv State.reset ∧ ∀ u : Setup, Inv (State.fresh u)

/-- Every step keeps the invariant: the encoder invariant R37, the decoder invariant R44 with its counters'
widths (R39, R42), and a 7-bit-clean output stream (R137). (R37, R44, R137 are marked derived by the spec.)
-/
def Obligations.StepKeepsTheInvariant : Prop :=
  ∀ s t : State, Inv s → step s = .next t → Inv t

/-- No step writes `CFG` or the widths (R22, R65), and no step stops: every command ends with a status, and
the next command finds its unit ready (R13, R219). -/
def Obligations.EveryStepEndsWithAStatusAndKeepsCfg : Prop :=
  ∀ s : State, ∃ t, step s = .next t ∧ t.setup = s.setup

/-! ## The encoder -/

/-- `ENC_RESET` (R121): from every state, whatever `space`, the encoder is in its just-constructed state,
the command ends `OK` and puts nothing out; pending bits are discarded; every word with `op = 10` is this
command, whatever its `cu` field; from the reset state nothing of `E` changes. -/
def Obligations.EncResetRestoresTheEncoder : Prop :=
  (∀ s : State, ∃ t, exec .encReset s = .next t ∧
    t.enc = { mode := .direct, pending := 0, acc := 0#6 } ∧ EncDelivers s t [] ∧ EncFrame s t ∧
    (s.enc = encInit → t.enc = s.enc)) ∧
    (∀ cu : CodeUnit, decode (.enc (0b10#2 ++ cu)) = .ok .encReset)

/-- `ENC_PUT` of a direct code unit (R125): in Direct mode its byte alone and `E` unchanged; in Base64 mode
the padding character exactly when bits are pending, the unshift byte by R126, the code unit's byte, and
Direct mode; the byte equals the code unit. -/
def Obligations.EncPutOfADirectUnit : Prop :=
  ∀ (cu : CodeUnit) (s : State), 4 ≤ s.encSpace → isDirect s.cfg cu = true →
    ∃ t, exec (.encPut cu) s = .next t ∧ EncFrame s t ∧ (lowByte cu).toNat = cu.toNat ∧
      (s.enc.mode = .direct → EncDelivers s t [lowByte cu] ∧ t.enc = s.enc) ∧
      (s.enc.mode = .base64 →
        EncDelivers s t
          ((if s.enc.pending = 0 then [] else [charOf s.cfg s.enc.acc]) ++
            (if s.cfg.strict = true ∨ contains s.cfg (lowByte cu) = true ∨ cu = unitOfByte s.cfg.unshift
              then [s.cfg.unshift] else []) ++ [lowByte cu]) ∧
        t.enc = { mode := .direct, pending := 0, acc := 0#6 })

/-- When the unshift byte goes before a direct code unit that closes a run, in the canonical styles (the
table of R126, whose base64 characters rest on the alphabets of R30, general knowledge by the spec's G1):
S1 and S2 before letters, digits, "/" and "-" and before no other; S3 before every one. -/
def Obligations.UnshiftOmissionInTheCanonicalStyles : Prop :=
  ∀ cu : CodeUnit,
    ((isDirect cfgS1 cu = true → (needUnshift cfgS1 cu = false ↔
        cu.toNat ∈ [0x27, 0x28, 0x29, 0x2C, 0x2E, 0x3A, 0x3F, 0x20, 0x09, 0x0D, 0x0A])) ∧
      (isDirect cfgS2 cu = true → (needUnshift cfgS2 cu = false ↔
        cu.toNat ∈ [0x27, 0x28, 0x29, 0x2C, 0x2E, 0x3A, 0x3F, 0x20, 0x09, 0x0D, 0x0A, 0x21, 0x22, 0x23,
          0x24, 0x25, 0x26, 0x2A, 0x3B, 0x3C, 0x3D, 0x3E, 0x40, 0x5B, 0x5D, 0x5E, 0x5F, 0x60, 0x7B, 0x7C,
          0x7D])) ∧
      needUnshift cfgS3 cu = true)

/-- `ENC_PUT` of the shift byte's code unit in Direct mode (R127): the two bytes `SHIFT`, `UNSHIFT`, in every
style, and `E` unchanged. -/
def Obligations.EncPutOfTheShiftUnitInDirectMode : Prop :=
  ∀ s : State, 4 ≤ s.encSpace → s.enc.mode = .direct →
    ∃ t, exec (.encPut (unitOfByte s.cfg.shift)) s = .next t ∧ EncFrame s t ∧
      EncDelivers s t [s.cfg.shift, s.cfg.unshift] ∧ t.enc = s.enc

/-- `ENC_PUT` of any other code unit in Direct mode enters Base64 mode (R128, R130, the latter marked
derived): the shift byte, then the characters of `cu[15:10]` and `cu[9:4]`; `cu[3:0]` stay pending. -/
def Obligations.EncPutEntersARun : Prop :=
  ∀ (cu : CodeUnit) (s : State), EncInv s.enc → 4 ≤ s.encSpace → isDirect s.cfg cu = false →
    cu ≠ unitOfByte s.cfg.shift → s.enc.mode = .direct →
      ∃ t, exec (.encPut cu) s = .next t ∧ EncFrame s t ∧
        EncDelivers s t
          [s.cfg.shift, charOf s.cfg (cu.extractLsb' 10 6), charOf s.cfg (cu.extractLsb' 4 6)] ∧
        t.enc = { mode := .base64, pending := 4, acc := cu.extractLsb' 0 4 ++ 0#2 }

/-- `ENC_PUT` of a code unit that is not direct, in Base64 mode, the shift byte's among them (R128, and the
three cases of R130, marked derived): no shift byte; the pending bits and the code unit's bits go out six at
a time, most significant first, and the rest stays pending. -/
def Obligations.EncPutContinuesARun : Prop :=
  ∀ (cu : CodeUnit) (s : State), EncInv s.enc → 4 ≤ s.encSpace → isDirect s.cfg cu = false →
    s.enc.mode = .base64 →
      ∃ t, exec (.encPut cu) s = .next t ∧ EncFrame s t ∧
        (s.enc.pending = 0 →
          EncDelivers s t [charOf s.cfg (cu.extractLsb' 10 6), charOf s.cfg (cu.extractLsb' 4 6)] ∧
          t.enc = { mode := .base64, pending := 4, acc := cu.extractLsb' 0 4 ++ 0#2 }) ∧
        (s.enc.pending = 4 →
          EncDelivers s t
            [charOf s.cfg (s.enc.acc.extractLsb' 2 4 ++ cu.extractLsb' 14 2),
              charOf s.cfg (cu.extractLsb' 8 6), charOf s.cfg (cu.extractLsb' 2 6)] ∧
          t.enc = { mode := .base64, pending := 2, acc := cu.extractLsb' 0 2 ++ 0#4 }) ∧
        (s.enc.pending = 2 →
          EncDelivers s t
            [charOf s.cfg (s.enc.acc.extractLsb' 4 2 ++ cu.extractLsb' 12 4),
              charOf s.cfg (cu.extractLsb' 6 6), charOf s.cfg (cu.extractLsb' 0 6)] ∧
          t.enc = { mode := .base64, pending := 0, acc := 0#6 })

/-- `ENC_PUT` ends `OVERFLOW` exactly when `space < 4`, whatever the code unit and the state, and then puts
nothing out and leaves `E` (R124; the threshold is the spec's own decision D5). -/
def Obligations.EncPutOverflowsBelowFourPlaces : Prop :=
  ∀ (cu : CodeUnit) (s : State),
    ∃ t, exec (.encPut cu) s = .next t ∧ EncFrame s t ∧
      (t.encRes.status = .overflow ↔ s.encSpace < 4) ∧
      (s.encSpace < 4 → EncFaulted s t .overflow) ∧ (4 ≤ s.encSpace → t.encRes.status = .ok)

/-- An `ENC_PUT` that ends `OK` puts out one to three bytes: the table of R131 (marked derived). -/
def Obligations.EncPutPutsOutOneToThreeBytes : Prop :=
  ∀ (cu : CodeUnit) (s : State), EncInv s.enc → 4 ≤ s.encSpace →
    ∃ t out, exec (.encPut cu) s = .next t ∧ EncDelivers s t out ∧ 1 ≤ out.length ∧ out.length ≤ 3 ∧
      (isDirect s.cfg cu = true → s.enc.mode = .direct → out.length = 1) ∧
      (isDirect s.cfg cu = true → s.enc.mode = .base64 →
        out.length = 1 + (if s.enc.pending = 0 then 0 else 1) +
          (if needUnshift s.cfg cu = true then 1 else 0)) ∧
      (isDirect s.cfg cu = false → s.enc.mode = .direct →
        out.length = if cu = unitOfByte s.cfg.shift then 2 else 3) ∧
      (isDirect s.cfg cu = false → s.enc.mode = .base64 →
        out.length = if s.enc.pending = 0 then 2 else 3)

/-- `ENC_FLUSH` (R134; the flush threshold and the padding of zero bits are the spec's own decisions D6, D24):
in Direct mode it ends `OK`, puts nothing out and leaves `E`, whatever `space`; in Base64 mode with two
places it puts out the padding character exactly when bits are pending, then the unshift byte, in every
style, and `E` is in its reset state. -/
def Obligations.EncFlushClosesTheRun : Prop :=
  (∀ s : State, s.enc.mode = .direct →
    ∃ t, exec .encFlush s = .next t ∧ EncFrame s t ∧ EncDelivers s t [] ∧ t.enc = s.enc) ∧
    (∀ s : State, s.enc.mode = .base64 → 2 ≤ s.encSpace →
      ∃ t, exec .encFlush s = .next t ∧ EncFrame s t ∧
        EncDelivers s t
          ((if s.enc.pending = 0 then [] else [charOf s.cfg s.enc.acc]) ++ [s.cfg.unshift]) ∧
        t.enc = { mode := .direct, pending := 0, acc := 0#6 })

/-- `ENC_FLUSH` ends `OVERFLOW` exactly in Base64 mode with fewer than two places, and then puts nothing out
and leaves `E` (R135; the threshold is the spec's own decision D6). -/
def Obligations.EncFlushOverflowsBelowTwoPlaces : Prop :=
  ∀ s : State, ∃ t, exec .encFlush s = .next t ∧ EncFrame s t ∧
    (t.encRes.status = .overflow ↔ s.enc.mode = .base64 ∧ s.encSpace < 2) ∧
    (s.enc.mode = .base64 → s.encSpace < 2 → EncFaulted s t .overflow)

/-- ENC never reports `MALFORMED`: whatever word its port is given, the command ends `OK`, `OVERFLOW` or
`BADCMD` (R138). -/
def Obligations.EncNeverReportsMalformed : Prop :=
  ∀ (w : EncWord) (n : Nat) (s : State),
    ∃ t, runCommand { word := .enc w, space := n } s = .next t ∧ t.encRes.status ≠ .malformed ∧
      (t.encRes.status ≠ .ok → t.encRes.status = .overflow ∨ t.encRes.status = .badcmd)

/-- Every byte ENC puts out is below 128, whatever the command and the state (R137, marked derived). -/
def Obligations.EncBytesAreSevenBit : Prop :=
  ∀ (w : EncWord) (n : Nat) (s t : State),
    runCommand { word := .enc w, space := n } s = .next t →
      ∃ out, t.encOut = s.encOut ++ out ∧ SevenBit out

/-! ## The decoder -/

/-- `DEC_RESET` (R151; the diagnostic fields are the spec's own decision D18): from every state, whatever
`space`, every field of `D` has its just-constructed value, the command ends `OK` and puts nothing out; every
word with `op = 10` is this command, whatever its `byte` field. -/
def Obligations.DecResetRestoresTheDecoder : Prop :=
  (∀ s : State, ∃ t, exec .decReset s = .next t ∧
    t.dec = { mode := .direct, bits := 0, acc := 0#16, cnt := 0, mal := false, malpos := 0, inpos := 0 } ∧
    DecDelivers s t none ∧ DecFrame s t) ∧
    (∀ b : Byte, decode (.dec (0b10#2 ++ b)) = .ok .decReset)

/-- A byte `>= 128` is malformed, length 1, in either mode and before any other test; it never closes a run,
strict or not, and nothing is put out (R154). (`D.mal`, `D.malpos` and `D.inpos` are the subject of
MalformedHasExactlySixCauses.) -/
def Obligations.DecPutOfAHighByteIsMalformed : Prop :=
  ∀ (b : Byte) (s : State), 128 ≤ b.toNat →
    ∃ t, exec (.decPut b) s = .next t ∧ DecFrame s t ∧ t.decRes.status = .malformed ∧
      t.decRes.errlen = 1 ∧ t.decRes.nout = 0#1 ∧ t.decOut = s.decOut ∧ SameRun s.dec t.dec

/-- Direct mode, the shift byte (R155): Base64 mode with no bits and no count; no output; `space` is not
read. (`D.inpos` is the subject of InposCountsAcceptedBytes.) -/
def Obligations.DecPutOfTheShiftByteOpensARun : Prop :=
  ∀ s : State, s.dec.mode = .direct →
    ∃ t, exec (.decPut s.cfg.shift) s = .next t ∧ DecFrame s t ∧ DecDelivers s t none ∧
      t.dec.mode = .base64 ∧ t.dec.bits = 0 ∧ t.dec.acc = 0#16 ∧ t.dec.cnt = 0 ∧
      SameDiagnostics s.dec t.dec

/-- Direct mode, any other byte below 128 (R156): put out as it is, in the direct set or not; with no place
the command ends `OVERFLOW` and changes nothing. (`D.inpos` is the subject of InposCountsAcceptedBytes.) -/
def Obligations.DecPutInDirectModeEmitsTheByte : Prop :=
  ∀ (b : Byte) (s : State), s.dec.mode = .direct → b.toNat < 128 → b ≠ s.cfg.shift →
    ∃ t, exec (.decPut b) s = .next t ∧ DecFrame s t ∧
      (1 ≤ s.decSpace → DecDelivers s t (some (unitOfByte b)) ∧ (unitOfByte b).toNat = b.toNat ∧
        SameRun s.dec t.dec ∧ SameDiagnostics s.dec t.dec) ∧
      (s.decSpace < 1 → DecFaulted s t .overflow)

/-- Base64 mode, a base64 character (R158): its 6 bits go in after the buffered ones; with 16 or more
buffered the top 16 are put out as they are and the rest stays. The buffered bits are read as the number
`D.acc`. (`D.cnt` and `D.inpos` are the subject of CntCountsDrainedUnits and InposCountsAcceptedBytes.) -/
def Obligations.DecPutOfABase64CharacterAccumulates : Prop :=
  ∀ (b : Byte) (v : Sextet) (s : State), DecInv s.par s.dec → s.dec.mode = .base64 →
    valueOf s.cfg b = some v → (10 ≤ s.dec.bits → 1 ≤ s.decSpace) →
      ∃ t, exec (.decPut b) s = .next t ∧ DecFrame s t ∧ t.dec.mode = .base64 ∧
        SameDiagnostics s.dec t.dec ∧
        (s.dec.bits < 10 → DecDelivers s t none ∧ t.dec.bits = s.dec.bits + 6 ∧
          t.dec.acc.toNat = s.dec.acc.toNat * 64 + v.toNat) ∧
        (10 ≤ s.dec.bits →
          ∃ u : CodeUnit, DecDelivers s t (some u) ∧ t.dec.bits = s.dec.bits - 10 ∧
            u.toNat = (s.dec.acc.toNat * 64 + v.toNat) / 2 ^ (s.dec.bits - 10) ∧
            t.dec.acc.toNat = (s.dec.acc.toNat * 64 + v.toNat) % 2 ^ (s.dec.bits - 10))

/-- `D.cnt` counts the code units drained in the run and saturates at `2^CNTW - 1` (R39; the saturation is
the spec's own decision D10): an accepted base64 character that drains one adds one, another adds none. -/
def Obligations.CntCountsDrainedUnits : Prop :=
  ∀ (b : Byte) (v : Sextet) (s : State), s.dec.mode = .base64 → valueOf s.cfg b = some v →
    (10 ≤ s.dec.bits → 1 ≤ s.decSpace) →
      ∃ t, exec (.decPut b) s = .next t ∧ t.decRes.status = .ok ∧
        t.dec.cnt =
          if 10 ≤ s.dec.bits then min (s.dec.cnt + 1) (2 ^ s.par.cntw - 1) else s.dec.cnt

/-- `D.inpos` counts the accepted bytes: a `DEC_PUT` adds one, modulo `2^POSW` where `POSW` is bounded, when
it ends `OK` and adds none otherwise (R42; the counter is the spec's own decision D13). -/
def Obligations.InposCountsAcceptedBytes : Prop :=
  ∀ (b : Byte) (s : State),
    ∃ t, exec (.decPut b) s = .next t ∧
      (t.decRes.status ≠ .ok → t.dec.inpos = s.dec.inpos) ∧
      (t.decRes.status = .ok → s.par.posw = none → t.dec.inpos = s.dec.inpos + 1) ∧
      (∀ w, t.decRes.status = .ok → s.par.posw = some w → t.dec.inpos = (s.dec.inpos + 1) % 2 ^ w)

/-- Base64 mode, the unshift byte, a run that is not empty, a legal leftover (R162): `OK`, nothing put out,
the leftover dropped, Direct mode; no `space` is needed. (`D.inpos` is the subject of
InposCountsAcceptedBytes.) -/
def Obligations.DecPutOfTheUnshiftByteClosesARun : Prop :=
  ∀ s : State, s.dec.mode = .base64 → ¬ (s.dec.bits = 0 ∧ s.dec.cnt = 0) →
    (s.dec.bits = 0 ∨ s.dec.bits = 2 ∨ s.dec.bits = 4) → s.dec.acc = 0#16 →
      ∃ t, exec (.decPut s.cfg.unshift) s = .next t ∧ DecFrame s t ∧ DecDelivers s t none ∧
        t.dec.mode = .direct ∧ t.dec.bits = 0 ∧ t.dec.acc = 0#16 ∧ t.dec.cnt = 0 ∧
        SameDiagnostics s.dec t.dec

/-- Base64 mode, the unshift byte, the empty run: the literal shift character, and Direct mode (R163); with no
place the command ends `OVERFLOW` and changes nothing (R159, the spec's own decision D7). (`D.inpos` is the
subject of InposCountsAcceptedBytes.) -/
def Obligations.DecPutOfTheUnshiftByteOnAnEmptyRun : Prop :=
  ∀ s : State, DecInv s.par s.dec → s.dec.mode = .base64 → s.dec.bits = 0 → s.dec.cnt = 0 →
    ∃ t, exec (.decPut s.cfg.unshift) s = .next t ∧ DecFrame s t ∧
      (1 ≤ s.decSpace → DecDelivers s t (some (unitOfByte s.cfg.shift)) ∧
        t.dec.mode = .direct ∧ t.dec.bits = 0 ∧ t.dec.acc = 0#16 ∧ t.dec.cnt = 0 ∧
        SameDiagnostics s.dec t.dec) ∧
      (s.decSpace < 1 → DecFaulted s t .overflow)

/-- Base64 mode, non-strict style: a byte below 128 that is neither a base64 character nor the unshift byte,
after a code unit was drained and with a legal leftover, closes the run and is itself taken in Direct mode, in
one command: put out, or `OVERFLOW` with the run still open, or, if it is the shift byte, a new run (R166,
R167; the implicit close is the spec's own decision D15). -/
def Obligations.DecPutClosesARunImplicitly : Prop :=
  ∀ (b : Byte) (s : State), s.dec.mode = .base64 → s.cfg.strict = false → b.toNat < 128 →
    valueOf s.cfg b = none → b ≠ s.cfg.unshift → s.dec.cnt ≠ 0 →
    (s.dec.bits = 0 ∨ s.dec.bits = 2 ∨ s.dec.bits = 4) → s.dec.acc = 0#16 →
      ∃ t, exec (.decPut b) s = .next t ∧ DecFrame s t ∧
        (b ≠ s.cfg.shift → 1 ≤ s.decSpace → DecDelivers s t (some (unitOfByte b)) ∧
          t.dec.mode = .direct ∧ t.dec.bits = 0 ∧ t.dec.acc = 0#16 ∧ t.dec.cnt = 0 ∧
          SameDiagnostics s.dec t.dec) ∧
        (b ≠ s.cfg.shift → s.decSpace < 1 → DecFaulted s t .overflow) ∧
        (b = s.cfg.shift → DecDelivers s t none ∧
          t.dec.mode = .base64 ∧ t.dec.bits = 0 ∧ t.dec.acc = 0#16 ∧ t.dec.cnt = 0 ∧
          SameDiagnostics s.dec t.dec)

/-- A foreign byte before any code unit of its run, non-strict style (R168): `MALFORMED`, length 1, at
`D.inpos`; by the decoder invariant 0, 6 or 12 bits are buffered then, and 6 and 12 are no legal leftover. (What a `MALFORMED` leaves and records is the
spec's own decisions D11, D13.) -/
def Obligations.ForeignByteBeforeAnyUnitIsMalformed : Prop :=
  ∀ (b : Byte) (s : State), DecInv s.par s.dec → s.dec.mode = .base64 → s.cfg.strict = false →
    b.toNat < 128 → valueOf s.cfg b = none → b ≠ s.cfg.unshift → s.dec.cnt = 0 →
      (∃ t, exec (.decPut b) s = .next t ∧ DecFrame s t ∧ DecMalformed s t) ∧
        (s.dec.bits = 0 ∨ s.dec.bits = 6 ∨ s.dec.bits = 12) ∧
        (s.dec.bits = 6 ∨ s.dec.bits = 12 → padOk s.dec = false)

/-- `DEC_PUT` ends `OVERFLOW` exactly when it is not malformed, would put out a code unit, and `space < 1`
(R159; the spec's own decision D7, and D16 for malformed before overflow): the four cases. -/
def Obligations.DecPutOverflowsOnlyWhenItWouldEmit : Prop :=
  ∀ (b : Byte) (s : State),
    ∃ t, exec (.decPut b) s = .next t ∧
      (t.decRes.status = .overflow → DecFaulted s t .overflow) ∧
      (t.decRes.status = .overflow ↔
        s.decSpace < 1 ∧ b.toNat < 128 ∧
          ((s.dec.mode = .direct ∧ b ≠ s.cfg.shift) ∨
            (s.dec.mode = .base64 ∧ valueOf s.cfg b ≠ none ∧ 10 ≤ s.dec.bits) ∨
            (s.dec.mode = .base64 ∧ b = s.cfg.unshift ∧ s.dec.bits = 0 ∧ s.dec.cnt = 0) ∨
            (s.dec.mode = .base64 ∧ valueOf s.cfg b = none ∧ b ≠ s.cfg.unshift ∧ b ≠ s.cfg.shift ∧
              s.cfg.strict = false ∧ s.dec.cnt ≠ 0 ∧ padOk s.dec = true)))

/-- `MALFORMED` has exactly the six causes M1 to M6 of R212, whatever `space`; each reports length 1 and
`D.inpos`, sets `D.mal`, copies `D.inpos` to `D.malpos` and changes nothing else. (What a `MALFORMED` leaves,
its length and its diagnostics are the spec's own decisions D11, D12, D13, D16.) -/
def Obligations.MalformedHasExactlySixCauses : Prop :=
  (∀ (b : Byte) (s : State),
    ∃ t, exec (.decPut b) s = .next t ∧ DecFrame s t ∧
      (t.decRes.status = .malformed → DecMalformed s t) ∧
      (t.decRes.status = .malformed ↔
        128 ≤ b.toNat ∨
          (s.dec.mode = .base64 ∧ b = s.cfg.unshift ∧ ¬ (s.dec.bits = 0 ∧ s.dec.cnt = 0) ∧
            padOk s.dec = false) ∨
          (s.dec.mode = .base64 ∧ b.toNat < 128 ∧ valueOf s.cfg b = none ∧ b ≠ s.cfg.unshift ∧
            (s.cfg.strict = true ∨ (s.cfg.strict = false ∧ s.dec.cnt = 0) ∨
              (s.cfg.strict = false ∧ s.dec.cnt ≠ 0 ∧ padOk s.dec = false))))) ∧
    (∀ s : State,
      ∃ t, exec .decFlush s = .next t ∧ DecFrame s t ∧
        (t.decRes.status = .malformed → DecMalformed s t) ∧
        (t.decRes.status = .malformed ↔ s.dec.mode = .base64))

/-- `DEC_FLUSH` in Direct mode ends `OK`, puts nothing out and changes nothing of `D`, whatever `space`, any
number of times (R176, R177; that it puts nothing out is the spec's own decision D27). -/
def Obligations.DecFlushInDirectModeIsClean : Prop :=
  ∀ s : State, s.dec.mode = .direct →
    ∃ t, exec .decFlush s = .next t ∧ DecFrame s t ∧ DecDelivers s t none ∧ t.dec = s.dec

/-- `DEC_FLUSH` in Base64 mode is `MALFORMED` whatever the buffered bits are; the run stays open, so a second
one is `MALFORMED` again at the same position (R176; length and state are the spec's own decisions D11,
D12). This is where the form traps, not where it completes. -/
def Obligations.DecFlushOfAnOpenRunIsMalformed : Prop :=
  ∀ s : State, s.dec.mode = .base64 →
    ∃ t t', exec .decFlush s = .next t ∧ DecFrame s t ∧ DecMalformed s t ∧ t.dec.mode = .base64 ∧
      exec .decFlush t = .next t' ∧ DecMalformed t t' ∧ t'.decRes.pos = t.decRes.pos ∧ t'.dec = t.dec

/-- A malformed byte presented again is malformed again, at the same position and with the same state (R175,
R256; the spec's own decisions D11, D13). -/
def Obligations.MalformedByteStaysMalformed : Prop :=
  ∀ (b : Byte) (n : Nat) (s t : State),
    issue (.decPut b) n s = .next t → t.decRes.status = .malformed →
      ∀ m, ∃ t', issue (.decPut b) m t = .next t' ∧ t'.decRes.status = .malformed ∧
        t'.decRes.pos = t.decRes.pos ∧ t'.dec = t.dec ∧ t'.decOut = t.decOut

/-- `D.mal` is sticky: whatever command any unit runs, a set flag stays set unless the command is `DEC_RESET`
(R43, R224; the spec's own decision D13). -/
def Obligations.MalformedFlagIsSticky : Prop :=
  ∀ (c : Command) (s : State), s.dec.mal = true → decode c.word ≠ .ok .decReset →
    ∃ t, runCommand c s = .next t ∧ t.dec.mal = true

/-! ## Both units -/

/-- The output of a command is all or nothing (R60): a fault status puts nothing out; `OK` delivers the
result's output lanes whole, at the end of the stream, and the `space` promise has room for them. -/
def Obligations.OutputIsAllOrNothing : Prop :=
  ∀ (c : Command) (s : State), EncInv s.enc →
    ∃ t, runCommand c s = .next t ∧
      (unitStatus c.unit t ≠ .ok → t.encOut = s.encOut ∧ t.decOut = s.decOut) ∧
      (c.unit = .enc → t.decOut = s.decOut ∧
        (t.encRes.status = .ok → t.encOut = s.encOut ++ t.encRes.outputs ∧
          t.encRes.outputs.length = t.encRes.nout.toNat ∧ t.encRes.nout.toNat ≤ c.space)) ∧
      (c.unit = .dec → t.encOut = s.encOut ∧
        (t.decRes.status = .ok → t.decOut = s.decOut ++ t.decRes.outputs ∧
          t.decRes.outputs.length = t.decRes.nout.toNat ∧ t.decRes.nout.toNat ≤ c.space))

/-- After `OVERFLOW` the same command with any other `space` does what the first would have done with it: same
status, same outputs, same new `E` and `D`, same streams; and nothing holds the unit: any other command may
be issued first (R221). (The meaningless result fields may differ.) -/
def Obligations.OverflowedCommandCanBeIssuedAgain : Prop :=
  ∀ (w : CommandWord) (n m : Nat) (s t : State),
    runCommand { word := w, space := n } s = .next t →
      unitStatus (Command.unit { word := w, space := n }) t = .overflow →
        ∃ t1 t2, runCommand { word := w, space := m } t = .next t1 ∧
          runCommand { word := w, space := m } s = .next t2 ∧
          t1.enc = t2.enc ∧ t1.dec = t2.dec ∧ t1.encOut = t2.encOut ∧ t1.decOut = t2.decOut ∧
          t1.encRes.outputs = t2.encRes.outputs ∧ t1.decRes.outputs = t2.decRes.outputs ∧
          unitStatus (Command.unit { word := w, space := n }) t1 =
            unitStatus (Command.unit { word := w, space := n }) t2 ∧
          ∀ c : Command, ∃ t', runCommand c t = .next t'

/-- Any interleaving of the two units' commands gives each unit the result of running alone: state, results,
output stream; and the shared configuration is never written (R62). -/
def Obligations.InterleavingDoesNotMatter : Prop :=
  ∀ (s : State) (cs : List Command),
    ∃ t te td, runCommands cs s = .next t ∧
      runCommands (cs.filter fun c => c.unit == .enc) s = .next te ∧
      runCommands (cs.filter fun c => c.unit == .dec) s = .next td ∧
      encView t = encView te ∧ decView t = decView td ∧ t.setup = s.setup ∧ t.cmds = []

/-! ## The configuration -/

/-- `TBL_NEW` fails on an alphabet whose length is not 64 or that has a duplicate character, and so does
bring-up, in every style (R203). -/
def Obligations.BadAlphabetFailsConstruction : Prop :=
  ∀ alphabet : List Nat, (alphabet.length ≠ 64 ∨ ¬ alphabet.Nodup) →
    tblNew alphabet = .error .constructionError ∧
      ∀ (st : Style) (p : Params), construct st alphabet p = .fault .constructionError

/-- `TBL_NEW` succeeds on every other alphabet of characters below 128, and the table it builds satisfies W1
and W2 in every style: `REV` is the inverse of `ALPHA` (R101, R102, the latter marked derived). A character
`>= 128` makes it fail. -/
def Obligations.BuiltTableIsInvertible : Prop :=
  (∀ alphabet : List Nat, alphabet.length = 64 → alphabet.Nodup → (∀ x ∈ alphabet, x < 128) →
    ∃ t, tblNew alphabet = .ok t ∧ t.alpha.map BitVec.toNat = alphabet) ∧
    (∀ (alphabet : List Nat) (t : Table) (st : Style), tblNew alphabet = .ok t →
      CfgW1 (cfgOf st t) ∧ CfgW2 (cfgOf st t)) ∧
    (∀ alphabet : List Nat, (∃ x ∈ alphabet, 128 ≤ x) → tblNew alphabet = .error .constructionError)

/-- The three canonical styles come up over their alphabets, in the reset state, with `SHIFT`, `UNSHIFT` and
`STRICT` of R23; a style whose unshift byte is a base64 character is refused. (That they satisfy W1 to W6 is
marked derived by the spec, R31; the refusal is its own decision D14; the alphabets are general knowledge,
G1.) -/
def Obligations.CanonicalStylesComeUp : Prop :=
  construct styleS1 (alphaS1.map BitVec.toNat) defaultParams = .next (State.fresh setupS1) ∧
    construct styleS2 (alphaS1.map BitVec.toNat) defaultParams = .next (State.fresh setupS2) ∧
    construct styleS3 (alphaS3.map BitVec.toNat) defaultParams = .next (State.fresh setupS3) ∧
    (cfgS1.shift, cfgS1.unshift, cfgS1.strict) = (0x2B#8, 0x2D#8, false) ∧
    (cfgS2.shift, cfgS2.unshift, cfgS2.strict) = (0x2B#8, 0x2D#8, false) ∧
    (cfgS3.shift, cfgS3.unshift, cfgS3.strict) = (0x26#8, 0x2D#8, true) ∧
    construct { styleS1 with unshift := 0x41#8 } (alphaS1.map BitVec.toNat) defaultParams
      = .refused .illFormedCfg

/-- The lookups over every instance (R104 to R107): a byte `>= 128` is absent and a code unit `>= 128` is not
direct, without a table read; otherwise the tables answer; `contains` says whether `value_of` is present;
`char_of` answers a byte below 128 whose value is its argument; the shift byte is never direct, and the
unshift byte is direct in S1, S2 and S3. -/
def Obligations.LookupsReadTheTables : Prop :=
  ∀ u : Setup,
    (∀ b : Byte, (128 ≤ b.toNat → valueOf u.cfg b = none) ∧
      (b.toNat < 128 → some (valueOf u.cfg b) = u.cfg.rev[b.toNat]?) ∧
      (contains u.cfg b = true ↔ valueOf u.cfg b ≠ none)) ∧
    (∀ v : Sextet, some (charOf u.cfg v) = u.cfg.alpha[v.toNat]? ∧ (charOf u.cfg v).toNat < 128 ∧
      valueOf u.cfg (charOf u.cfg v) = some v) ∧
    (∀ cu : CodeUnit, (128 ≤ cu.toNat → isDirect u.cfg cu = false) ∧
      (cu.toNat < 128 → isDirect u.cfg cu = u.cfg.direct.getLsbD cu.toNat)) ∧
    isDirect u.cfg (unitOfByte u.cfg.shift) = false ∧
    (u = setupS1 ∨ u = setupS2 ∨ u = setupS3 → isDirect u.cfg (unitOfByte u.cfg.unshift) = true)

/-- The direct set of S1 (R25): letters, digits, the nine marks, space, tab, CR and LF, and nothing else: 75 members, and the 128-bit number of the spec. -/
def Obligations.DirectSetOfS1 : Prop :=
  (∀ cu : CodeUnit,
    isDirect cfgS1 cu = true ↔
      (0x41 ≤ cu.toNat ∧ cu.toNat ≤ 0x5A) ∨ (0x61 ≤ cu.toNat ∧ cu.toNat ≤ 0x7A) ∨
        (0x30 ≤ cu.toNat ∧ cu.toNat ≤ 0x39) ∨
        cu.toNat ∈ [0x27, 0x28, 0x29, 0x2C, 0x2D, 0x2E, 0x2F, 0x3A, 0x3F, 0x20, 0x09, 0x0D, 0x0A]) ∧
    ((List.range 128).filter fun c => cfgS1.direct.getLsbD c).length = 75 ∧
    cfgS1.direct = 0x07FFFFFE07FFFFFE87FFF38100002600#128

/-! ## The laws of the call contract -/

/-- Idempotent flush (R199): an `ENC_END` after one that returned `Underflow` returns `Underflow` with no
output, with any capacity, and so does every later one, since the encoder does not change; `DEC_END` in
Direct mode returns `Underflow` with no output and leaves the decoder as it was, so any number of times. -/
def Obligations.FlushIsIdempotent : Prop :=
  (∀ (s : State) (cap : Nat) (e : Call Byte), encEnd cap s = .next e → e.result = .underflow →
    ∀ cap' : Nat, ∃ e', encEnd cap' e.state = .next e' ∧ e'.result = .underflow ∧ e'.produced = [] ∧
      e'.state.enc = e.state.enc ∧ e'.state.encOut = e.state.encOut) ∧
    (∀ s : State, s.dec.mode = .direct →
      ∃ d, decEnd s = .next d ∧ d.result = .underflow ∧ d.produced = [] ∧ d.state.dec = s.dec ∧
        d.state.decOut = s.decOut)

/-- Direct characters encode to themselves (R200): `enc([c])` is the single byte `c`; and inside any stream
what ENC puts out for `c` ends with the byte `c`. -/
def Obligations.DirectCharactersEncodeToThemselves : Prop :=
  ∀ (s : State) (c : CodeUnit), isDirect s.cfg c = true →
    (∃ e, encAll [c] s = .next e ∧ e.result = .underflow ∧ e.produced = [lowByte c] ∧
      (lowByte c).toNat = c.toNat) ∧
      (∀ n, 4 ≤ n → ∃ t front, issue (.encPut c) n s = .next t ∧ t.encRes.status = .ok ∧
        t.encOut = s.encOut ++ (front ++ [lowByte c]))

/-- Splitting does not matter on the encoder side (R193, marked derived): an `ENC_BUF` with any capacity,
followed by the unconsumed rest with room, produces what one `ENC_STR` of all units produces and leaves the
same encoder state. -/
def Obligations.EncoderSplittingDoesNotMatter : Prop :=
  ∀ (s : State) (us : List CodeUnit) (cap : Nat),
    ∃ c d w, encBuf us cap s = .next c ∧ encStr (us.drop c.consumed) c.state = .next d ∧
      encStr us s = .next w ∧ c.consumed ≤ us.length ∧ w.produced = c.produced ++ d.produced ∧
      w.state.enc = d.state.enc ∧ w.result = .underflow ∧ d.result = .underflow

/-- Chunk-size independence of the decoder (R201, marked derived): a `DEC_BUF` with any capacity, followed by
the unconsumed rest with room, produces what one `DEC_STR` of all bytes produces; the decoder ends in the same
state, and a malformed byte is met at the same place of the stream. -/
def Obligations.DecoderChunkSizeDoesNotMatter : Prop :=
  ∀ (s : State) (bs : List Byte) (cap : Nat) (e : Bool),
    ∃ c w, decBuf bs cap e s = .next c ∧ decStr bs s = .next w ∧ c.consumed ≤ bs.length ∧
      (c.result = .overflow ∨ c.result = .underflow →
        ∃ d, decStr (bs.drop c.consumed) c.state = .next d ∧ w.produced = c.produced ++ d.produced ∧
          w.consumed = c.consumed + d.consumed ∧ w.state.dec = d.state.dec ∧
          (w.result = .underflow ↔ d.result = .underflow)) ∧
      (∀ len pos, c.result = .malformed len pos →
        w.result = .malformed len pos ∧ w.produced = c.produced ∧ w.consumed = c.consumed ∧
          w.state.dec = c.state.dec)

/-- Size bound (R202, marked derived): `m` code units encode to at most `3 m + 2` bytes, `m` bytes decode to
at most `m` code units. -/
def Obligations.StreamSizesAreBounded : Prop :=
  (∀ (s : State) (us : List CodeUnit), ∃ e, encAll us s = .next e ∧ e.produced.length ≤ 3 * us.length + 2) ∧
    (∀ (s : State) (bs : List Byte), ∃ d, decAll bs s = .next d ∧ d.produced.length ≤ bs.length)

/-- The bit layout of a run (R83, R84, marked derived): a list of one or more code units, none direct and the
first not the shift byte's, encodes to the shift byte, then the characters of the sextets into which the units'
concatenated bits are cut, the last padded with zeros, then the unshift byte; there are `ceil(8 k / 3)`
characters. -/
def Obligations.RunLayoutIsTheConcatenatedBits : Prop :=
  ∀ (s : State) (u : CodeUnit) (us : List CodeUnit), u ≠ unitOfByte s.cfg.shift →
    (∀ x ∈ u :: us, isDirect s.cfg x = false) →
      ∃ e, encAll (u :: us) s = .next e ∧ e.result = .underflow ∧
        e.produced =
          [s.cfg.shift] ++ (sextetsOf (runBits (u :: us))).map (charOf s.cfg) ++ [s.cfg.unshift] ∧
        (sextetsOf (runBits (u :: us))).length = (8 * (us.length + 1) + 2) / 3

/-- Round trip (R198, marked derived): over every well-formed configuration, every list of code units,
surrogates paired or not, is what its encoding decodes to, and neither direction reports a fault. -/
def Obligations.DecodingInvertsEncoding : Prop :=
  ∀ (s : State) (us : List CodeUnit),
    ∃ e d, encAll us s = .next e ∧ e.result = .underflow ∧ decAll e.produced e.state = .next d ∧
      d.produced = us ∧ d.result = .underflow
end

