-- ==== Sys2Proof/Laws/Bits.lean ====
section
/-! SUPPORT. What the bit operations compute, as arithmetic: the fields of assembled words, `pack` for each
pending count (spec/41_encoder.md R130) and `unpack` (spec/42_decoder.md R160). -/

namespace Sys2Proof

/-- An assembled `ENC` word as a number. -/
theorem encWord_toNat (op : BitVec 2) (cu : CodeUnit) :
    BitVec.toNat (w := 18) (op ++ cu) = op.toNat * 65536 + cu.toNat := by
  have h : BitVec.toNat (w := 18) (op ++ cu) = op.toNat <<< 16 ||| cu.toNat := BitVec.toNat_append op cu
  rw [h, ← Nat.shiftLeft_add_eq_or_of_lt cu.isLt, Nat.shiftLeft_eq]

/-- An assembled `DEC` word as a number. -/
theorem decWord_toNat (op : BitVec 2) (b : Byte) :
    BitVec.toNat (w := 10) (op ++ b) = op.toNat * 256 + b.toNat := by
  have h : BitVec.toNat (w := 10) (op ++ b) = op.toNat <<< 8 ||| b.toNat := BitVec.toNat_append op b
  rw [h, ← Nat.shiftLeft_add_eq_or_of_lt b.isLt, Nat.shiftLeft_eq]

/-- The bits of an assembled `ENC` word. -/
theorem encWord_getLsbD (op : BitVec 2) (cu : CodeUnit) (k : Nat) :
    BitVec.getLsbD (w := 18) (op ++ cu) k = if k < 16 then cu.getLsbD k else op.getLsbD (k - 16) :=
  BitVec.getLsbD_append

/-- The bits of an assembled `DEC` word. -/
theorem decWord_getLsbD (op : BitVec 2) (b : Byte) (k : Nat) :
    BitVec.getLsbD (w := 10) (op ++ b) k = if k < 8 then b.getLsbD k else op.getLsbD (k - 8) :=
  BitVec.getLsbD_append

/-- The field `op` of an `ENC` word as a number. -/
theorem encOpField_toNat (w : EncWord) : (encOpField w).toNat = w.toNat / 65536 := by
  have h := w.isLt
  simp only [encOpField, BitVec.extractLsb'_toNat, Nat.shiftRight_eq_div_pow]
  omega

/-- The field `cu` of an `ENC` word as a number. -/
theorem encCuField_toNat (w : EncWord) : (encCuField w).toNat = w.toNat % 65536 := by
  simp only [encCuField, BitVec.extractLsb'_toNat, Nat.shiftRight_eq_div_pow]
  omega

/-- The field `op` of a `DEC` word as a number. -/
theorem decOpField_toNat (w : DecWord) : (decOpField w).toNat = w.toNat / 256 := by
  have h := w.isLt
  simp only [decOpField, BitVec.extractLsb'_toNat, Nat.shiftRight_eq_div_pow]
  omega

/-- The field `byte` of a `DEC` word as a number. -/
theorem decByteField_toNat (w : DecWord) : (decByteField w).toNat = w.toNat % 256 := by
  simp only [decByteField, BitVec.extractLsb'_toNat, Nat.shiftRight_eq_div_pow]
  omega

theorem encOpField_append (op : BitVec 2) (cu : CodeUnit) : encOpField (op ++ cu) = op := by
  apply BitVec.eq_of_toNat_eq
  rw [encOpField_toNat, encWord_toNat]
  have := cu.isLt
  omega

theorem encCuField_append (op : BitVec 2) (cu : CodeUnit) : encCuField (op ++ cu) = cu := by
  apply BitVec.eq_of_toNat_eq
  rw [encCuField_toNat, encWord_toNat]
  have := cu.isLt
  omega

theorem decOpField_append (op : BitVec 2) (b : Byte) : decOpField (op ++ b) = op := by
  apply BitVec.eq_of_toNat_eq
  rw [decOpField_toNat, decWord_toNat]
  have := b.isLt
  omega

theorem decByteField_append (op : BitVec 2) (b : Byte) : decByteField (op ++ b) = b := by
  apply BitVec.eq_of_toNat_eq
  rw [decByteField_toNat, decWord_toNat]
  have := b.isLt
  omega

namespace Machine

/-- A byte as a code unit, as a number. -/
@[simp] theorem unitOfByte_toNat (b : Byte) : (unitOfByte b).toNat = b.toNat := by
  have := b.isLt
  simp only [unitOfByte, BitVec.toNat_setWidth]
  omega

/-- The low byte of a code unit, as a number. -/
theorem lowByte_toNat (cu : CodeUnit) : (lowByte cu).toNat = cu.toNat % 256 := by
  simp only [lowByte, BitVec.extractLsb'_toNat, Nat.shiftRight_eq_div_pow]
  omega

/-- The low byte of a byte's code unit is the byte. -/
@[simp] theorem lowByte_unitOfByte (b : Byte) : lowByte (unitOfByte b) = b := by
  apply BitVec.eq_of_toNat_eq
  have := b.isLt
  rw [lowByte_toNat, unitOfByte_toNat]
  omega

/-- The working number of `pack`: the pending bits above the code unit's. -/
theorem packBuf_eq (p : Nat) (a : Sextet) (cu : CodeUnit) :
    packBuf p a cu = a.toNat / 2 ^ (6 - p) * 65536 + cu.toNat := by
  unfold packBuf
  rw [Nat.shiftRight_eq_div_pow, ← Nat.shiftLeft_add_eq_or_of_lt cu.isLt, Nat.shiftLeft_eq]

theorem and_low_six (n : Nat) : n &&& 0x3F = n % 64 := Nat.and_two_pow_sub_one_eq_mod n 6

/-- Two fields side by side make a sextet, as a number. -/
theorem sextet_append_toNat {m k : Nat} (h : m + k = 6) (x : BitVec m) (y : BitVec k) :
    (BitVec.cast h (x ++ y)).toNat = x.toNat * 2 ^ k + y.toNat := by
  rw [BitVec.toNat_cast, BitVec.toNat_append, ← Nat.shiftLeft_add_eq_or_of_lt y.isLt, Nat.shiftLeft_eq]

/-- `pack` with nothing pending: two characters, four bits stay. -/
theorem pack_zero (cu : CodeUnit) :
    pack 0 0#6 cu =
      { chars := [cu.extractLsb' 10 6, cu.extractLsb' 4 6]
        pending := 4
        acc := cu.extractLsb' 0 4 ++ 0#2 } := by
  have hcu : cu.toNat < 65536 := cu.isLt
  simp only [pack, packBuf_eq, and_low_six]
  refine (Packed.mk.injEq ..).mpr ⟨?_, rfl, ?_⟩
  · show [_, _] = [_, _]
    congr 1
    · apply BitVec.eq_of_toNat_eq
      simp [BitVec.extractLsb'_toNat, Nat.shiftRight_eq_div_pow]
    · congr 1
      apply BitVec.eq_of_toNat_eq
      simp [BitVec.extractLsb'_toNat, Nat.shiftRight_eq_div_pow]
  · apply BitVec.eq_of_toNat_eq
    have h := sextet_append_toNat (m := 4) (k := 2) rfl (cu.extractLsb' 0 4) 0#2
    rw [BitVec.cast_eq] at h
    refine Eq.trans ?_ h.symm
    simp [BitVec.extractLsb'_toNat, Nat.shiftLeft_eq]
    omega

/-- `pack` with four bits pending: three characters, two bits stay. -/
theorem pack_four (a : Sextet) (cu : CodeUnit) :
    pack 4 a cu =
      { chars := [a.extractLsb' 2 4 ++ cu.extractLsb' 14 2, cu.extractLsb' 8 6, cu.extractLsb' 2 6]
        pending := 2
        acc := cu.extractLsb' 0 2 ++ 0#4 } := by
  have hcu : cu.toNat < 65536 := cu.isLt
  have ha : a.toNat < 64 := a.isLt
  simp only [pack, packBuf_eq, and_low_six]
  refine (Packed.mk.injEq ..).mpr ⟨?_, rfl, ?_⟩
  · show [_, _, _] = [_, _, _]
    congr 1
    · apply BitVec.eq_of_toNat_eq
      have h := sextet_append_toNat (m := 4) (k := 2) rfl (a.extractLsb' 2 4) (cu.extractLsb' 14 2)
      rw [BitVec.cast_eq] at h
      refine Eq.trans ?_ h.symm
      simp [BitVec.extractLsb'_toNat, Nat.shiftRight_eq_div_pow]
      omega
    · congr 1
      · apply BitVec.eq_of_toNat_eq
        simp [BitVec.extractLsb'_toNat, Nat.shiftRight_eq_div_pow]
        omega
      · congr 1
        apply BitVec.eq_of_toNat_eq
        simp [BitVec.extractLsb'_toNat, Nat.shiftRight_eq_div_pow]
        omega
  · apply BitVec.eq_of_toNat_eq
    have h := sextet_append_toNat (m := 2) (k := 4) rfl (cu.extractLsb' 0 2) 0#4
    rw [BitVec.cast_eq] at h
    refine Eq.trans ?_ h.symm
    simp [BitVec.extractLsb'_toNat, Nat.shiftLeft_eq]
    omega

/-- `pack` with two bits pending: three characters, nothing stays. -/
theorem pack_two (a : Sextet) (cu : CodeUnit) :
    pack 2 a cu =
      { chars := [a.extractLsb' 4 2 ++ cu.extractLsb' 12 4, cu.extractLsb' 6 6, cu.extractLsb' 0 6]
        pending := 0
        acc := 0#6 } := by
  have hcu : cu.toNat < 65536 := cu.isLt
  have ha : a.toNat < 64 := a.isLt
  simp only [pack, packBuf_eq, and_low_six]
  refine (Packed.mk.injEq ..).mpr ⟨?_, rfl, ?_⟩
  · show [_, _, _] = [_, _, _]
    congr 1
    · apply BitVec.eq_of_toNat_eq
      have h := sextet_append_toNat (m := 2) (k := 4) rfl (a.extractLsb' 4 2) (cu.extractLsb' 12 4)
      rw [BitVec.cast_eq] at h
      refine Eq.trans ?_ h.symm
      simp [BitVec.extractLsb'_toNat, Nat.shiftRight_eq_div_pow]
      omega
    · congr 1
      · apply BitVec.eq_of_toNat_eq
        simp [BitVec.extractLsb'_toNat, Nat.shiftRight_eq_div_pow]
        omega
      · congr 1
        apply BitVec.eq_of_toNat_eq
        simp [BitVec.extractLsb'_toNat, Nat.shiftRight_eq_div_pow]
        omega
  · apply BitVec.eq_of_toNat_eq
    simp [Nat.shiftLeft_eq]

/-- The working number of `unpack`: the buffered bits above the character's six. -/
theorem unpackBuf_eq (a : BitVec 16) (v : Sextet) :
    a.toNat <<< 6 ||| v.toNat = a.toNat * 64 + v.toNat := by
  rw [← Nat.shiftLeft_add_eq_or_of_lt v.isLt, Nat.shiftLeft_eq]

/-- `unpack` below ten buffered bits: nothing drained, six bits more. -/
theorem unpack_short (n : Nat) (a : BitVec 16) (v : Sextet) (hn : n < 10) :
    unpack n a v = { unit := none, bits := n + 6, acc := BitVec.ofNat 16 (a.toNat * 64 + v.toNat) } := by
  have h : ¬ 16 ≤ n + 6 := by omega
  simp only [unpack, h, if_false, unpackBuf_eq]

/-- `unpack` with ten or more buffered bits: the top sixteen drained, the rest kept. -/
theorem unpack_full (n : Nat) (a : BitVec 16) (v : Sextet) (hn : 10 ≤ n) :
    unpack n a v =
      { unit := some (BitVec.ofNat 16 ((a.toNat * 64 + v.toNat) / 2 ^ (n - 10)))
        bits := n - 10
        acc := BitVec.ofNat 16 ((a.toNat * 64 + v.toNat) % 2 ^ (n - 10)) } := by
  have h : 16 ≤ n + 6 := by omega
  have e : n + 6 - 16 = n - 10 := by omega
  have m : ∀ x : Nat, BitVec.ofNat 16 (x &&& 0xFFFF) = BitVec.ofNat 16 x := by
    intro x
    apply BitVec.eq_of_toNat_eq
    rw [Nat.and_two_pow_sub_one_eq_mod x 16, BitVec.toNat_ofNat, BitVec.toNat_ofNat, Nat.mod_mod]
  simp only [unpack, h, if_true, unpackBuf_eq, e, m, Nat.shiftRight_eq_div_pow]
  rw [Nat.one_shiftLeft, Nat.and_two_pow_sub_one_eq_mod]

end Machine
end Sys2Proof
end

