-- ==== Sys2Proof/Laws/PerInstr.lean ====
section
/-! SUPPORT. A law about every instruction as syntax, one lemma per constructor: the assembler's word carries
its row's `match` under the row's `mask` (spec/30_encoding.md R78). -/

namespace Sys2Proof.Laws.TableRow

/-- The `mask` of an instruction's row (R78). -/
def mask : Instr → CommandWord
  | .encPut _ => .enc 0x30000#18
  | .encFlush => .enc 0x30000#18
  | .encReset => .enc 0x30000#18
  | .decPut _ => .dec 0x300#10
  | .decFlush => .dec 0x300#10
  | .decReset => .dec 0x300#10

/-- The `match` of an instruction's row (R78). -/
def pattern : Instr → CommandWord
  | .encPut _ => .enc 0x00000#18
  | .encFlush => .enc 0x10000#18
  | .encReset => .enc 0x20000#18
  | .decPut _ => .dec 0x000#10
  | .decFlush => .dec 0x100#10
  | .decReset => .dec 0x200#10

/-- A word under a mask of its own format; words of different formats do not meet. -/
def under : CommandWord → CommandWord → Option CommandWord
  | .enc w, .enc m => some (.enc (w &&& m))
  | .dec w, .dec m => some (.dec (w &&& m))
  | .enc _, .dec _ => none
  | .dec _, .enc _ => none

/-- The word of `i` selects the row of `i`. -/
def Statement (i : Instr) : Prop := i.wf = true ∧ under (encode i) (mask i) = some (pattern i)

theorem encPut (cu : CodeUnit) : Statement (.encPut cu) := by
  refine ⟨rfl, ?_⟩
  simp only [under, encode, mask, pattern, Option.some.injEq, CommandWord.enc.injEq]
  apply BitVec.eq_of_getLsbD_eq
  intro k hk
  rw [BitVec.getLsbD_and, encWord_getLsbD]
  by_cases h : k < 16
  · have h0 : ∀ j : Fin 16, (0x30000#18).getLsbD j.val = false := by decide
    rw [h0 ⟨k, h⟩]
    simp
  · simp [h]

theorem encFlush : Statement .encFlush := by
  unfold Statement; decide

theorem encReset : Statement .encReset := by
  unfold Statement; decide

theorem decPut (b : Byte) : Statement (.decPut b) := by
  refine ⟨rfl, ?_⟩
  simp only [under, encode, mask, pattern, Option.some.injEq, CommandWord.dec.injEq]
  apply BitVec.eq_of_getLsbD_eq
  intro k hk
  rw [BitVec.getLsbD_and, decWord_getLsbD]
  by_cases h : k < 8
  · have h0 : ∀ j : Fin 8, (0x300#10).getLsbD j.val = false := by decide
    rw [h0 ⟨k, h⟩]
    simp
  · simp [h]

theorem decFlush : Statement .decFlush := by
  unfold Statement; decide

theorem decReset : Statement .decReset := by
  unfold Statement; decide

end Sys2Proof.Laws.TableRow
end

