-- ==== Sys2Proof/Laws/State.lean ====
section
/-! SUPPORT. For each operation that updates the state, one lemma per field, so that no proof unfolds a
record update. -/

namespace Sys2Proof.Machine

@[simp] theorem takeFault_enc_setup (st : Status) (s : State) :
    (takeFault .enc st s).setup = s.setup := rfl

@[simp] theorem takeFault_enc_enc (st : Status) (s : State) :
    (takeFault .enc st s).enc = s.enc := rfl

@[simp] theorem takeFault_enc_dec (st : Status) (s : State) :
    (takeFault .enc st s).dec = s.dec := rfl

@[simp] theorem takeFault_enc_cmds (st : Status) (s : State) :
    (takeFault .enc st s).cmds = s.cmds := rfl

@[simp] theorem takeFault_enc_encSpace (st : Status) (s : State) :
    (takeFault .enc st s).encSpace = s.encSpace := rfl

@[simp] theorem takeFault_enc_decSpace (st : Status) (s : State) :
    (takeFault .enc st s).decSpace = s.decSpace := rfl

@[simp] theorem takeFault_enc_encRes (st : Status) (s : State) :
    (takeFault .enc st s).encRes = encResultOf st [] s.encDraw := rfl

@[simp] theorem takeFault_enc_decRes (st : Status) (s : State) :
    (takeFault .enc st s).decRes = s.decRes := rfl

@[simp] theorem takeFault_enc_encOut (st : Status) (s : State) :
    (takeFault .enc st s).encOut = s.encOut := rfl

@[simp] theorem takeFault_enc_decOut (st : Status) (s : State) :
    (takeFault .enc st s).decOut = s.decOut := rfl

@[simp] theorem takeFault_enc_encDraw (st : Status) (s : State) :
    (takeFault .enc st s).encDraw = s.encDraw + 1 := rfl

@[simp] theorem takeFault_enc_decDraw (st : Status) (s : State) :
    (takeFault .enc st s).decDraw = s.decDraw := rfl

@[simp] theorem takeFault_dec_setup (st : Status) (s : State) :
    (takeFault .dec st s).setup = s.setup := rfl

@[simp] theorem takeFault_dec_enc (st : Status) (s : State) :
    (takeFault .dec st s).enc = s.enc := rfl

@[simp] theorem takeFault_dec_dec (st : Status) (s : State) :
    (takeFault .dec st s).dec = decAfterFault st s.dec := rfl

@[simp] theorem takeFault_dec_cmds (st : Status) (s : State) :
    (takeFault .dec st s).cmds = s.cmds := rfl

@[simp] theorem takeFault_dec_encSpace (st : Status) (s : State) :
    (takeFault .dec st s).encSpace = s.encSpace := rfl

@[simp] theorem takeFault_dec_decSpace (st : Status) (s : State) :
    (takeFault .dec st s).decSpace = s.decSpace := rfl

@[simp] theorem takeFault_dec_encRes (st : Status) (s : State) :
    (takeFault .dec st s).encRes = s.encRes := rfl

@[simp] theorem takeFault_dec_decRes (st : Status) (s : State) :
    (takeFault .dec st s).decRes = decResultFault s.par st s.dec.inpos s.decDraw := rfl

@[simp] theorem takeFault_dec_encOut (st : Status) (s : State) :
    (takeFault .dec st s).encOut = s.encOut := rfl

@[simp] theorem takeFault_dec_decOut (st : Status) (s : State) :
    (takeFault .dec st s).decOut = s.decOut := rfl

@[simp] theorem takeFault_dec_encDraw (st : Status) (s : State) :
    (takeFault .dec st s).encDraw = s.encDraw := rfl

@[simp] theorem takeFault_dec_decDraw (st : Status) (s : State) :
    (takeFault .dec st s).decDraw = s.decDraw + 1 := rfl

@[simp] theorem finishEnc_ok_setup (e : EncState) (out : List Byte) (s : State) :
    (finishEnc (.ok e out) s).setup = s.setup := rfl

@[simp] theorem finishEnc_ok_enc (e : EncState) (out : List Byte) (s : State) :
    (finishEnc (.ok e out) s).enc = e := rfl

@[simp] theorem finishEnc_ok_dec (e : EncState) (out : List Byte) (s : State) :
    (finishEnc (.ok e out) s).dec = s.dec := rfl

@[simp] theorem finishEnc_ok_cmds (e : EncState) (out : List Byte) (s : State) :
    (finishEnc (.ok e out) s).cmds = s.cmds := rfl

@[simp] theorem finishEnc_ok_encSpace (e : EncState) (out : List Byte) (s : State) :
    (finishEnc (.ok e out) s).encSpace = s.encSpace := rfl

@[simp] theorem finishEnc_ok_decSpace (e : EncState) (out : List Byte) (s : State) :
    (finishEnc (.ok e out) s).decSpace = s.decSpace := rfl

@[simp] theorem finishEnc_ok_encRes (e : EncState) (out : List Byte) (s : State) :
    (finishEnc (.ok e out) s).encRes = encResultOf .ok out s.encDraw := rfl

@[simp] theorem finishEnc_ok_decRes (e : EncState) (out : List Byte) (s : State) :
    (finishEnc (.ok e out) s).decRes = s.decRes := rfl

@[simp] theorem finishEnc_ok_encOut (e : EncState) (out : List Byte) (s : State) :
    (finishEnc (.ok e out) s).encOut = s.encOut ++ out := rfl

@[simp] theorem finishEnc_ok_decOut (e : EncState) (out : List Byte) (s : State) :
    (finishEnc (.ok e out) s).decOut = s.decOut := rfl

@[simp] theorem finishEnc_ok_encDraw (e : EncState) (out : List Byte) (s : State) :
    (finishEnc (.ok e out) s).encDraw = s.encDraw + 1 := rfl

@[simp] theorem finishEnc_ok_decDraw (e : EncState) (out : List Byte) (s : State) :
    (finishEnc (.ok e out) s).decDraw = s.decDraw := rfl

@[simp] theorem finishDec_ok_setup (d : DecState) (out : Option CodeUnit) (s : State) :
    (finishDec (.ok d out) s).setup = s.setup := rfl

@[simp] theorem finishDec_ok_enc (d : DecState) (out : Option CodeUnit) (s : State) :
    (finishDec (.ok d out) s).enc = s.enc := rfl

@[simp] theorem finishDec_ok_dec (d : DecState) (out : Option CodeUnit) (s : State) :
    (finishDec (.ok d out) s).dec = d := rfl

@[simp] theorem finishDec_ok_cmds (d : DecState) (out : Option CodeUnit) (s : State) :
    (finishDec (.ok d out) s).cmds = s.cmds := rfl

@[simp] theorem finishDec_ok_encSpace (d : DecState) (out : Option CodeUnit) (s : State) :
    (finishDec (.ok d out) s).encSpace = s.encSpace := rfl

@[simp] theorem finishDec_ok_decSpace (d : DecState) (out : Option CodeUnit) (s : State) :
    (finishDec (.ok d out) s).decSpace = s.decSpace := rfl

@[simp] theorem finishDec_ok_encRes (d : DecState) (out : Option CodeUnit) (s : State) :
    (finishDec (.ok d out) s).encRes = s.encRes := rfl

@[simp] theorem finishDec_ok_decRes (d : DecState) (out : Option CodeUnit) (s : State) :
    (finishDec (.ok d out) s).decRes = decResultOk s.par out s.decDraw := rfl

@[simp] theorem finishDec_ok_encOut (d : DecState) (out : Option CodeUnit) (s : State) :
    (finishDec (.ok d out) s).encOut = s.encOut := rfl

@[simp] theorem finishDec_ok_decOut (d : DecState) (out : Option CodeUnit) (s : State) :
    (finishDec (.ok d out) s).decOut = s.decOut ++ out.toList := rfl

@[simp] theorem finishDec_ok_encDraw (d : DecState) (out : Option CodeUnit) (s : State) :
    (finishDec (.ok d out) s).encDraw = s.encDraw := rfl

@[simp] theorem finishDec_ok_decDraw (d : DecState) (out : Option CodeUnit) (s : State) :
    (finishDec (.ok d out) s).decDraw = s.decDraw + 1 := rfl

@[simp] theorem present_enc_setup (w : EncWord) (n : Nat) (s : State) :
    (present { word := .enc w, space := n } s).setup = s.setup := rfl

@[simp] theorem present_enc_enc (w : EncWord) (n : Nat) (s : State) :
    (present { word := .enc w, space := n } s).enc = s.enc := rfl

@[simp] theorem present_enc_dec (w : EncWord) (n : Nat) (s : State) :
    (present { word := .enc w, space := n } s).dec = s.dec := rfl

@[simp] theorem present_enc_cmds (w : EncWord) (n : Nat) (s : State) :
    (present { word := .enc w, space := n } s).cmds = s.cmds := rfl

@[simp] theorem present_enc_encSpace (w : EncWord) (n : Nat) (s : State) :
    (present { word := .enc w, space := n } s).encSpace = n := rfl

@[simp] theorem present_enc_decSpace (w : EncWord) (n : Nat) (s : State) :
    (present { word := .enc w, space := n } s).decSpace = s.decSpace := rfl

@[simp] theorem present_enc_encRes (w : EncWord) (n : Nat) (s : State) :
    (present { word := .enc w, space := n } s).encRes = s.encRes := rfl

@[simp] theorem present_enc_decRes (w : EncWord) (n : Nat) (s : State) :
    (present { word := .enc w, space := n } s).decRes = s.decRes := rfl

@[simp] theorem present_enc_encOut (w : EncWord) (n : Nat) (s : State) :
    (present { word := .enc w, space := n } s).encOut = s.encOut := rfl

@[simp] theorem present_enc_decOut (w : EncWord) (n : Nat) (s : State) :
    (present { word := .enc w, space := n } s).decOut = s.decOut := rfl

@[simp] theorem present_enc_encDraw (w : EncWord) (n : Nat) (s : State) :
    (present { word := .enc w, space := n } s).encDraw = s.encDraw := rfl

@[simp] theorem present_enc_decDraw (w : EncWord) (n : Nat) (s : State) :
    (present { word := .enc w, space := n } s).decDraw = s.decDraw := rfl

@[simp] theorem present_dec_setup (w : DecWord) (n : Nat) (s : State) :
    (present { word := .dec w, space := n } s).setup = s.setup := rfl

@[simp] theorem present_dec_enc (w : DecWord) (n : Nat) (s : State) :
    (present { word := .dec w, space := n } s).enc = s.enc := rfl

@[simp] theorem present_dec_dec (w : DecWord) (n : Nat) (s : State) :
    (present { word := .dec w, space := n } s).dec = s.dec := rfl

@[simp] theorem present_dec_cmds (w : DecWord) (n : Nat) (s : State) :
    (present { word := .dec w, space := n } s).cmds = s.cmds := rfl

@[simp] theorem present_dec_encSpace (w : DecWord) (n : Nat) (s : State) :
    (present { word := .dec w, space := n } s).encSpace = s.encSpace := rfl

@[simp] theorem present_dec_decSpace (w : DecWord) (n : Nat) (s : State) :
    (present { word := .dec w, space := n } s).decSpace = n := rfl

@[simp] theorem present_dec_encRes (w : DecWord) (n : Nat) (s : State) :
    (present { word := .dec w, space := n } s).encRes = s.encRes := rfl

@[simp] theorem present_dec_decRes (w : DecWord) (n : Nat) (s : State) :
    (present { word := .dec w, space := n } s).decRes = s.decRes := rfl

@[simp] theorem present_dec_encOut (w : DecWord) (n : Nat) (s : State) :
    (present { word := .dec w, space := n } s).encOut = s.encOut := rfl

@[simp] theorem present_dec_decOut (w : DecWord) (n : Nat) (s : State) :
    (present { word := .dec w, space := n } s).decOut = s.decOut := rfl

@[simp] theorem present_dec_encDraw (w : DecWord) (n : Nat) (s : State) :
    (present { word := .dec w, space := n } s).encDraw = s.encDraw := rfl

@[simp] theorem present_dec_decDraw (w : DecWord) (n : Nat) (s : State) :
    (present { word := .dec w, space := n } s).decDraw = s.decDraw := rfl

@[simp] theorem fresh_setup (u : Setup) :
    (State.fresh u).setup = u := rfl

@[simp] theorem fresh_enc (u : Setup) :
    (State.fresh u).enc = encInit := rfl

@[simp] theorem fresh_dec (u : Setup) :
    (State.fresh u).dec = decInit := rfl

@[simp] theorem fresh_cmds (u : Setup) :
    (State.fresh u).cmds = [] := rfl

@[simp] theorem fresh_encSpace (u : Setup) :
    (State.fresh u).encSpace = 0 := rfl

@[simp] theorem fresh_decSpace (u : Setup) :
    (State.fresh u).decSpace = 0 := rfl

@[simp] theorem fresh_encRes (u : Setup) :
    (State.fresh u).encRes = encResInit := rfl

@[simp] theorem fresh_decRes (u : Setup) :
    (State.fresh u).decRes = decResInit := rfl

@[simp] theorem fresh_encOut (u : Setup) :
    (State.fresh u).encOut = [] := rfl

@[simp] theorem fresh_decOut (u : Setup) :
    (State.fresh u).decOut = [] := rfl

@[simp] theorem fresh_encDraw (u : Setup) :
    (State.fresh u).encDraw = 0 := rfl

@[simp] theorem fresh_decDraw (u : Setup) :
    (State.fresh u).decDraw = 0 := rfl

@[simp] theorem finishEnc_fault (st : Status) (s : State) :
    finishEnc (.fault st) s = takeFault .enc st s := rfl

@[simp] theorem finishDec_fault (st : Status) (s : State) :
    finishDec (.fault st) s = takeFault .dec st s := rfl

@[simp] theorem decAfterFault_malformed (d : DecState) :
    decAfterFault .malformed d = { d with mal := true, malpos := d.inpos } := rfl

@[simp] theorem decAfterFault_overflow (d : DecState) : decAfterFault .overflow d = d := rfl

@[simp] theorem decAfterFault_badcmd (d : DecState) : decAfterFault .badcmd d = d := rfl

@[simp] theorem encResultOf_status (st : Status) (out : List Byte) (n : Nat) :
    (encResultOf st out n).status = st := rfl

@[simp] theorem encResultOf_nil_nout (st : Status) (n : Nat) : (encResultOf st [] n).nout = 0#2 := rfl

@[simp] theorem encResultOf_nil_outputs (st : Status) (n : Nat) : (encResultOf st [] n).outputs = [] := rfl

@[simp] theorem decResultOk_status (p : Params) (out : Option CodeUnit) (n : Nat) :
    (decResultOk p out n).status = .ok := rfl

@[simp] theorem decResultOk_nout (p : Params) (out : Option CodeUnit) (n : Nat) :
    (decResultOk p out n).nout = BitVec.ofBool out.isSome := rfl

@[simp] theorem decResultOk_errlen (p : Params) (out : Option CodeUnit) (n : Nat) :
    (decResultOk p out n).errlen = 0 := rfl

@[simp] theorem decResultFault_status (p : Params) (st : Status) (i n : Nat) :
    (decResultFault p st i n).status = st := rfl

@[simp] theorem decResultFault_nout (p : Params) (st : Status) (i n : Nat) :
    (decResultFault p st i n).nout = 0#1 := rfl

@[simp] theorem decResultFault_outputs (p : Params) (st : Status) (i n : Nat) :
    (decResultFault p st i n).outputs = [] := rfl

@[simp] theorem decResultFault_malformed_errlen (p : Params) (i n : Nat) :
    (decResultFault p .malformed i n).errlen = 1 := rfl

@[simp] theorem decResultFault_malformed_pos (p : Params) (i n : Nat) :
    (decResultFault p .malformed i n).pos = i := rfl

@[simp] theorem decResultFault_overflow_errlen (p : Params) (i n : Nat) :
    (decResultFault p .overflow i n).errlen = 0 := rfl

@[simp] theorem decResultFault_badcmd_errlen (p : Params) (i n : Nat) :
    (decResultFault p .badcmd i n).errlen = 0 := rfl

/-- A DEC result delivers exactly the code unit the command put out. -/
@[simp] theorem decResultOk_outputs (p : Params) (out : Option CodeUnit) (n : Nat) :
    (decResultOk p out n).outputs = out.toList := by
  cases out <;> rfl

/-- An ENC result delivers exactly the output list, when the list fits the three lanes (R74, R131). -/
theorem encResultOf_outputs (st : Status) (out : List Byte) (n : Nat) (h : out.length ≤ 3) :
    (encResultOf st out n).outputs = out := by
  match out, h with
  | [], _ => rfl
  | [_], _ => rfl
  | [_, _], _ => rfl
  | [_, _, _], _ => rfl

/-- `nout` counts the output list, when the list fits the three lanes (R74, R131). -/
theorem encResultOf_nout (st : Status) (out : List Byte) (n : Nat) (h : out.length ≤ 3) :
    (encResultOf st out n).nout.toNat = out.length := by
  simp only [encResultOf, BitVec.toNat_ofNat]
  omega

end Sys2Proof.Machine
end

