-- ==== Sys2Proof/Laws/Units.lean ====
section
/-! SUPPORT. What each shared operation and each command can do, said once: the configuration's facts, the
cases of the two PUT commands, the ends of a command, and one command at a port. -/

namespace Sys2Proof.Machine

/-! ## The configuration -/

/-- A `Setup` carries W1 to W6 and the widths' bounds. -/
theorem setup_wf (u : Setup) : CfgWF u.cfg ∧ ParamsWF u.par := of_decide_eq_true u.ok

/-- A 6-bit index is inside the alphabet. -/
theorem charOf_mem (u : Setup) (v : Sextet) : charOf u.cfg v ∈ u.cfg.alpha := by
  have hlen := (setup_wf u).1.1.1
  have hv : v.toNat < u.cfg.alpha.length := by rw [hlen]; exact v.isLt
  simp only [charOf, alphaAt, List.getD_eq_getElem?_getD, List.getElem?_eq_getElem hv, Option.getD_some]
  exact List.getElem_mem hv

/-- A base64 character is a 7-bit byte. -/
theorem charOf_lt (u : Setup) (v : Sextet) : (charOf u.cfg v).toNat < 128 :=
  (setup_wf u).1.1.2.2 _ (charOf_mem u v)

/-- `value_of` inverts `char_of`. -/
theorem valueOf_charOf (u : Setup) (v : Sextet) : valueOf u.cfg (charOf u.cfg v) = some v := by
  have hlt := charOf_lt u v
  have h := (setup_wf u).1.2.1.2.1 v.toNat v.isLt
  have hn : ¬ 128 ≤ (charOf u.cfg v).toNat := by omega
  simp only [valueOf, hn, if_false]
  simpa [charOf] using h

/-- The unshift byte is a 7-bit byte and no base64 character. -/
theorem valueOf_unshift (u : Setup) : valueOf u.cfg u.cfg.unshift = none := by
  have h3 := (setup_wf u).1.2.2.1.2
  have hn : ¬ 128 ≤ u.cfg.unshift.toNat := by omega
  simp only [valueOf, hn, if_false]
  exact (setup_wf u).1.2.2.2.2.2

/-- A direct code unit is below 128. -/
theorem lt_of_isDirect {c : Cfg} {cu : CodeUnit} (h : isDirect c cu = true) : cu.toNat < 128 := by
  by_contra hn
  have : 128 ≤ cu.toNat := by omega
  simp [isDirect, this] at h

/-- The shift byte's code unit is not direct. -/
theorem isDirect_shift (u : Setup) : isDirect u.cfg (unitOfByte u.cfg.shift) = false := by
  have h3 := (setup_wf u).1.2.2.1.1
  have h4 := (setup_wf u).1.2.2.2.1
  have hn : ¬ 128 ≤ u.cfg.shift.toNat := by omega
  simp only [isDirect, unitOfByte_toNat, hn, if_false]
  exact h4

/-- A base64 character's byte is below 128. -/
theorem lt_of_valueOf {c : Cfg} {b : Byte} {v : Sextet} (h : valueOf c b = some v) : b.toNat < 128 := by
  by_contra hn
  have : 128 ≤ b.toNat := by omega
  simp [valueOf, this] at h

/-! ## The classes of `ENC_PUT` (R120, R123) -/

theorem encPut_overflow (c : Cfg) (e : EncState) (cu : CodeUnit) (n : Nat) (h : n < 4) :
    encPut c e cu n = .fault .overflow := by
  simp [encPut, encWorst, h]

theorem encPut_direct (c : Cfg) (e : EncState) (cu : CodeUnit) (n : Nat) (h : 4 ≤ n)
    (hd : isDirect c cu = true) : encPut c e cu n = encDirect c e cu := by
  have : ¬ n < encWorst := by simp [encWorst]; omega
  simp [encPut, this, hd]

theorem encPut_shift (c : Cfg) (e : EncState) (n : Nat) (h : 4 ≤ n)
    (hd : isDirect c (unitOfByte c.shift) = false) (hm : e.mode = .direct) :
    encPut c e (unitOfByte c.shift) n = .ok e [c.shift, c.unshift] := by
  have : ¬ n < encWorst := by simp [encWorst]; omega
  simp [encPut, this, hd, hm]

theorem encPut_other (c : Cfg) (e : EncState) (cu : CodeUnit) (n : Nat) (h : 4 ≤ n)
    (hd : isDirect c cu = false) (hs : cu ≠ unitOfByte c.shift ∨ e.mode = .base64) :
    encPut c e cu n = encPacked c e cu := by
  have h4 : ¬ n < encWorst := by simp [encWorst]; omega
  have hn : ¬ (cu = unitOfByte c.shift ∧ e.mode = .direct) := by
    rintro ⟨h1, h2⟩
    rcases hs with hs | hs
    · exact hs h1
    · rw [h2] at hs; cases hs
  simp [encPut, h4, hd, hn]

/-! ## The classes of `DEC_PUT` (R152, R153) -/

theorem decPut_high (c : Cfg) (p : Params) (d : DecState) (b : Byte) (n : Nat) (h : 128 ≤ b.toNat) :
    decPut c p d b n = .fault .malformed := by
  simp [decPut, h]

theorem decPut_direct (c : Cfg) (p : Params) (d : DecState) (b : Byte) (n : Nat) (h : b.toNat < 128)
    (hm : d.mode = .direct) : decPut c p d b n = directByte c p d b n := by
  have : ¬ 128 ≤ b.toNat := by omega
  simp [decPut, this, hm]

theorem decPut_char (c : Cfg) (p : Params) (d : DecState) (b : Byte) (v : Sextet) (n : Nat)
    (hv : valueOf c b = some v) (hm : d.mode = .base64) : decPut c p d b n = decChar p d v n := by
  have : ¬ 128 ≤ b.toNat := by have := lt_of_valueOf hv; omega
  simp [decPut, this, hm, hv]

theorem decPut_unshift (u : Setup) (p : Params) (d : DecState) (n : Nat) (hm : d.mode = .base64) :
    decPut u.cfg p d u.cfg.unshift n = decUnshift u.cfg p d n := by
  have h3 := (setup_wf u).1.2.2.1.2
  have hn : ¬ 128 ≤ u.cfg.unshift.toNat := by omega
  simp [decPut, hn, hm, valueOf_unshift]

theorem decPut_foreign (c : Cfg) (p : Params) (d : DecState) (b : Byte) (n : Nat) (h : b.toNat < 128)
    (hm : d.mode = .base64) (hv : valueOf c b = none) (hu : b ≠ c.unshift) :
    decPut c p d b n = decForeign c p d b n := by
  have : ¬ 128 ≤ b.toNat := by omega
  simp [decPut, this, hm, hv, hu]

/-! ## The end of a command -/

/-- An ENC command's end, whatever it is, leaves DEC, the configuration, the host's commands and ENC's
`space` input, and counts the command. -/
theorem finishEnc_frame (x : EncEnd) (s : State) :
    EncFrame s (finishEnc x s) ∧ (finishEnc x s).encDraw = s.encDraw + 1 := by
  cases x <;> exact ⟨⟨⟨rfl, rfl, rfl, rfl, rfl⟩, rfl, rfl, rfl⟩, rfl⟩

/-- A DEC command's end, whatever it is, leaves ENC, the configuration, the host's commands and DEC's
`space` input, and counts the command. -/
theorem finishDec_frame (x : DecEnd) (s : State) :
    DecFrame s (finishDec x s) ∧ (finishDec x s).decDraw = s.decDraw + 1 := by
  cases x <;> exact ⟨⟨⟨rfl, rfl, rfl, rfl, rfl⟩, rfl, rfl, rfl⟩, rfl⟩

/-- An ENC command that ends `OK` with at most three bytes delivers them. -/
theorem finishEnc_delivers (e : EncState) (out : List Byte) (s : State) (h : out.length ≤ 3) :
    EncDelivers s (finishEnc (.ok e out) s) out :=
  ⟨rfl, encResultOf_nout .ok out s.encDraw h, encResultOf_outputs .ok out s.encDraw h, rfl⟩

/-- A DEC command that ends `OK` delivers what it puts out. -/
theorem finishDec_delivers (d : DecState) (out : Option CodeUnit) (s : State) :
    DecDelivers s (finishDec (.ok d out) s) out :=
  ⟨rfl, rfl, decResultOk_outputs s.par out s.decDraw, rfl, rfl⟩

/-- A fault outcome of an ENC command. -/
theorem takeFault_encFaulted (st : Status) (s : State) : EncFaulted s (takeFault .enc st s) st :=
  ⟨rfl, rfl, rfl, rfl⟩

/-- A `MALFORMED` outcome of a DEC command. -/
theorem takeFault_decMalformed (s : State) : DecMalformed s (takeFault .dec .malformed s) :=
  ⟨rfl, rfl, rfl, rfl, rfl, rfl⟩

/-- An `OVERFLOW` or `BADCMD` outcome of a DEC command. -/
theorem takeFault_decFaulted (st : Status) (s : State) (h : st ≠ .malformed) :
    DecFaulted s (takeFault .dec st s) st :=
  ⟨rfl, rfl, if_neg h, rfl, if_neg h⟩

/-! ## One command at a port -/

/-- What a command of ENC's port does: an end of an ENC command, at the state with its `space` presented. -/
theorem runCommand_enc (w : EncWord) (n : Nat) (s : State) :
    ∃ x : EncEnd, runCommand { word := .enc w, space := n } s =
      .next (finishEnc x (present { word := .enc w, space := n } s)) := by
  by_cases h0 : encOpField w = 0b00#2
  · exact ⟨_, by simp only [runCommand, decode, decodeEnc, h0]; rfl⟩
  by_cases h1 : encOpField w = 0b01#2
  · exact ⟨_, by simp only [runCommand, decode, decodeEnc, h1]; rfl⟩
  by_cases h2 : encOpField w = 0b10#2
  · exact ⟨_, by simp only [runCommand, decode, decodeEnc, h2]; rfl⟩
  · exact ⟨.fault .badcmd, by simp only [runCommand, decode, decodeEnc, h0, h1, h2, if_false]; rfl⟩

/-- What a command of DEC's port does: an end of a DEC command, at the state with its `space` presented. -/
theorem runCommand_dec (w : DecWord) (n : Nat) (s : State) :
    ∃ x : DecEnd, runCommand { word := .dec w, space := n } s =
      .next (finishDec x (present { word := .dec w, space := n } s)) := by
  by_cases h0 : decOpField w = 0b00#2
  · exact ⟨_, by simp only [runCommand, decode, decodeDec, h0]; rfl⟩
  by_cases h1 : decOpField w = 0b01#2
  · exact ⟨_, by simp only [runCommand, decode, decodeDec, h1]; rfl⟩
  by_cases h2 : decOpField w = 0b10#2
  · exact ⟨_, by simp only [runCommand, decode, decodeDec, h2]; rfl⟩
  · exact ⟨.fault .badcmd, by simp only [runCommand, decode, decodeDec, h0, h1, h2, if_false]; rfl⟩

/-- A step with a command waiting runs it. -/
theorem step_cons (s : State) (c : Command) (rest : List Command) (h : s.cmds = c :: rest) :
    step s = runCommand c { s with cmds := rest } := by
  simp [step, h]

/-- An instruction issued as the assembler writes it runs that instruction. -/
theorem issue_encPut (cu : CodeUnit) (n : Nat) (s : State) :
    issue (.encPut cu) n s = exec (.encPut cu) { s with encSpace := n } := by
  have h : decode (encode (.encPut cu)) = .ok (.encPut cu) := by
    simp only [encode, decode, decodeEnc, encOpField_append, encCuField_append, if_true]
  simp only [issue, runCommand, h]
  rfl

theorem issue_encFlush (n : Nat) (s : State) :
    issue .encFlush n s = exec .encFlush { s with encSpace := n } := rfl

theorem issue_encReset (n : Nat) (s : State) :
    issue .encReset n s = exec .encReset { s with encSpace := n } := rfl

theorem issue_decPut (b : Byte) (n : Nat) (s : State) :
    issue (.decPut b) n s = exec (.decPut b) { s with decSpace := n } := by
  have h : decode (encode (.decPut b)) = .ok (.decPut b) := by
    simp only [encode, decode, decodeDec, decOpField_append, decByteField_append, if_true]
  simp only [issue, runCommand, h]
  rfl

theorem issue_decFlush (n : Nat) (s : State) :
    issue .decFlush n s = exec .decFlush { s with decSpace := n } := rfl

theorem issue_decReset (n : Nat) (s : State) :
    issue .decReset n s = exec .decReset { s with decSpace := n } := rfl

end Sys2Proof.Machine
end

