-- ==== Sys2Proof/Tests/Slice0.lean ====
section
/-! SUPPORT. The model's own tests: words decoded, one step per command with the results the spec prints
(spec/95_test_vectors.md), ill-formed configurations refused, and for every obligation with hypotheses a
concrete state that meets them. -/

namespace Sys2Proof.Tests

open Sys2Proof.Machine

/-! ## Words written out from the spec's encoding (R71, R72, section 2.8) -/

theorem test_decode_enc_words :
    decode (.enc 0b000010001001100010#18) = .ok (.encPut 0x2262#16) ∧
      decode (.enc 0b010000000000000000#18) = .ok .encFlush ∧
      decode (.enc 0b100000000000000000#18) = .ok .encReset := by decide

theorem test_decode_enc_ignores_cu :
    decode (.enc 0x1ABCD#18) = .ok .encFlush ∧ decode (.enc 0x2FFFF#18) = .ok .encReset := by decide

theorem test_decode_dec_words :
    decode (.dec 0b0000100110#10) = .ok (.decPut 0x26#8) ∧
      decode (.dec 0b0100000000#10) = .ok .decFlush ∧
      decode (.dec 0b1000000000#10) = .ok .decReset := by decide

theorem test_decode_dec_ignores_byte :
    decode (.dec 0x1FF#10) = .ok .decFlush ∧ decode (.dec 0x2FF#10) = .ok .decReset := by decide

theorem test_decode_reserved_at_the_ends :
    decode (.enc 0x30000#18) = .error .reservedEnc ∧ decode (.enc 0x3FFFF#18) = .error .reservedEnc ∧
      decode (.dec 0x300#10) = .error .reservedDec ∧ decode (.dec 0x3FF#10) = .error .reservedDec := by
  decide

theorem test_encode_words :
    encode (.encPut 0x2262#16) = .enc 0x02262#18 ∧ encode .encFlush = .enc 0x10000#18 ∧
      encode .encReset = .enc 0x20000#18 ∧ encode (.decPut 0x26#8) = .dec 0x026#10 ∧
      encode .decFlush = .dec 0x100#10 ∧ encode .decReset = .dec 0x200#10 := by decide

theorem test_table_words :
    decodeTableWord 24 0x02262 = some (.encPut 0x2262#16) ∧ decodeTableWord 16 0x026 = some (.decPut 0x26#8) ∧
      decodeTableWord 24 0x30041 = none ∧ decodeTableWord 16 0x341 = none ∧
      decodeTableWord 24 0x40000 = none := by decide

/-! ## One step -/

/-- The reset state with another `E` and `space`. -/
def encAt (e : EncState) (space : Nat) : State := { State.reset with enc := e, encSpace := space }

/-- The reset state with another `D` and `space`. -/
def decAt (d : DecState) (space : Nat) : State := { State.reset with dec := d, decSpace := space }

/-- `D` with clear diagnostics. -/
def decOf (m : Mode) (bits : Nat) (acc : BitVec 16) (cnt inpos : Nat) : DecState :=
  { mode := m, bits := bits, acc := acc, cnt := cnt, mal := false, malpos := 0, inpos := inpos }

/-- Status, output and `E` after one step on a word at ENC's port. -/
def encStep (u : Setup) (e : EncState) (w : EncWord) (space : Nat) :
    Option (Status × List Byte × EncState) :=
  match step { State.fresh u with enc := e, cmds := [{ word := .enc w, space := space }] } with
  | .next t => some (t.encRes.status, t.encRes.outputs, t.enc)
  | .fault _ => none
  | .refused _ => none

/-- Status, output and `D` after one step on a word at DEC's port. -/
def decStep (u : Setup) (d : DecState) (w : DecWord) (space : Nat) :
    Option (Status × List CodeUnit × DecState) :=
  match step { State.fresh u with dec := d, cmds := [{ word := .dec w, space := space }] } with
  | .next t => some (t.decRes.status, t.decRes.outputs, t.dec)
  | .fault _ => none
  | .refused _ => none

/-- R123's worked example: `"+Im"`. -/
theorem test_encPut_enters_a_run :
    encStep setupS1 encInit 0x02262#18 4 =
      some (.ok, [0x2B#8, 0x49#8, 0x6D#8], { mode := .base64, pending := 4, acc := 0x08#6 }) := by decide

/-- Program P2: `"Q-."` in the strict style. -/
theorem test_encPut_direct_closes_a_run :
    encStep setupS3 { mode := .base64, pending := 2, acc := 0x10#6 } 0x0002E#18 4 =
      some (.ok, [0x51#8, 0x2D#8, 0x2E#8], encInit) := by decide

/-- R134's worked example: zero leftover bits still give `"A-"`. -/
theorem test_encFlush_pads :
    encStep setupS1 { mode := .base64, pending := 4, acc := 0x00#6 } 0x10000#18 2 =
      some (.ok, [0x41#8, 0x2D#8], encInit) := by decide

/-- Section 2.4: one place is not enough, although one byte would do. -/
theorem test_encFlush_overflows :
    encStep setupS1 { mode := .base64, pending := 0, acc := 0x00#6 } 0x10000#18 1 =
      some (.overflow, [], { mode := .base64, pending := 0, acc := 0x00#6 }) := by decide

/-- R121's worked example. -/
theorem test_encReset_discards :
    encStep setupS1 { mode := .base64, pending := 4, acc := 0x08#6 } 0x20000#18 0 =
      some (.ok, [], encInit) := by decide

/-- Program P3: the third character drains a code unit. -/
theorem test_decPut_drains :
    decStep setupS1 (decOf .base64 12 0x0226#16 0 4) 0x049#10 1 =
      some (.ok, [0x2262#16], decOf .base64 2 0x0000#16 1 5) := by decide

/-- Program P7: with no place the implicit close does not take effect. -/
theorem test_decPut_implicit_close_overflows :
    decStep setupS1 (decOf .base64 2 0x0000#16 1 4) 0x02E#10 0 =
      some (.overflow, [], decOf .base64 2 0x0000#16 1 4) := by decide

/-- V6: a truncated shift sequence. -/
theorem test_decFlush_truncated :
    decStep setupS3 (decOf .base64 0 0x0000#16 0 1) 0x100#10 1 =
      some (.malformed, [], { decOf .base64 0 0x0000#16 0 1 with mal := true, malpos := 1 }) := by decide

/-- R151's worked example. -/
theorem test_decReset_discards :
    decStep setupS1 { decOf .base64 12 0x0226#16 0 4 with mal := true, malpos := 3 } 0x200#10 0 =
      some (.ok, [], decInit) := by decide

/-- Program P8: the reserved word changes nothing. -/
theorem test_reserved_word :
    encStep setupS1 { mode := .base64, pending := 4, acc := 0x08#6 } 0x30041#18 4 =
      some (.badcmd, [], { mode := .base64, pending := 4, acc := 0x08#6 }) := by decide

/-- The positions wrap at `2^POSW` (R42) and the count stays at `2^CNTW - 1` (R39). -/
theorem test_counters_at_their_top :
    posNext { cntw := 1, posw := some 8 } 255 = 0 ∧ posNext { cntw := 1, posw := none } 255 = 256 ∧
      cntNext { cntw := 1, posw := none } 0 = 1 ∧ cntNext { cntw := 1, posw := none } 1 = 1 := by decide

/-- Section 2.2, rows 2 and 3, and section 2.5, row 6. -/
theorem test_pack_and_unpack :
    pack 4 0x08#6 0x0391#16 = { chars := [8#6, 3#6, 36#6], pending := 2, acc := 0x10#6 } ∧
      pack 2 0x10#6 0x2262#16 = { chars := [18#6, 9#6, 34#6], pending := 0, acc := 0#6 } ∧
      unpack 14 0x00E4#16 16#6 = { unit := some 0x0391#16, bits := 4, acc := 0#16 } := by decide

/-! ## The checks refuse ill-formed terms (R31, R101) -/

theorem test_w1_refuses_a_short_alphabet : ¬ CfgW1 { cfgS1 with alpha := [] } := by decide

theorem test_w2_refuses_an_empty_reverse_table : ¬ CfgW2 { cfgS1 with rev := [] } := by decide

theorem test_w3_refuses_a_high_shift_byte : ¬ CfgW3 { cfgS1 with shift := 0x80#8 } := by decide

theorem test_w4_refuses_a_direct_shift_byte : ¬ CfgW4 { cfgS1 with shift := 0x41#8 } := by decide

theorem test_w5_refuses_equal_delimiters : ¬ CfgW5 { cfgS1 with shift := 0x2D#8 } := by decide

theorem test_w6_refuses_a_base64_unshift_byte : ¬ CfgW6 { cfgS1 with unshift := 0x41#8 } := by decide

theorem test_params_refuse_zero_widths :
    ¬ ParamsWF { cntw := 0, posw := none } ∧ ¬ ParamsWF { cntw := 16, posw := some 0 } := by
  refine ⟨by decide, ?_⟩
  rintro ⟨_, h⟩
  exact absurd (h 0 rfl) (by decide)

/-- V10: 63 characters; a duplicate; a character above 127. -/
theorem test_tblNew_refuses :
    tblNew ((alphaS1.take 63).map BitVec.toNat) = .error .constructionError ∧
      tblNew (((alphaS1.take 63).map BitVec.toNat) ++ [0x41]) = .error .constructionError ∧
      tblNew (((alphaS1.take 63).map BitVec.toNat) ++ [0xE9]) = .error .constructionError := by
  refine ⟨if_pos (by decide +kernel), ?_, ?_⟩
  · rw [tblNew, if_neg (by decide +kernel), if_neg (by decide +kernel), if_pos (by decide +kernel)]
  · rw [tblNew, if_neg (by decide +kernel), if_pos (by decide +kernel)]

/-! ## Every obligation's hypotheses can be met -/

/-- `E` as it is after `ENC_PUT 0x2262` (program P1), with the other two pending counts beside it. -/
def encPending (p : Nat) (a : Sextet) : EncState := { mode := .base64, pending := p, acc := a }

theorem encInv_reset : EncInv encInit := ⟨by decide, by decide, by decide⟩

theorem encInv_pending :
    EncInv (encPending 0 0#6) ∧ EncInv (encPending 4 0x08#6) ∧ EncInv (encPending 2 0x10#6) :=
  ⟨⟨by decide, by decide, by decide⟩, ⟨by decide, by decide, by decide⟩, ⟨by decide, by decide, by decide⟩⟩

theorem posFits_unbounded (n : Nat) : PosFits defaultParams n := by
  intro w hw
  cases hw

theorem decInv_base64 (bits : Nat) (acc : BitVec 16) (cnt n : Nat) (h1 : bits % 2 = 0 ∧ bits ≤ 14)
    (h2 : acc.toNat < 2 ^ bits) (h3 : cnt = 0 → bits = 0 ∨ bits = 6 ∨ bits = 12)
    (h4 : cnt ≤ 2 ^ defaultParams.cntw - 1) : DecInv defaultParams (decOf .base64 bits acc cnt n) :=
  ⟨h1, h2, fun h => absurd h (fun h' => Mode.noConfusion h'), fun _ => h3, h4, posFits_unbounded _,
    posFits_unbounded _⟩

theorem inv_reset_example : Inv State.reset :=
  ⟨encInv_reset, ⟨by decide, by decide, by decide, by decide, by decide, posFits_unbounded _, posFits_unbounded _⟩,
    fun _ h => by cases h⟩

theorem witness_DecodeAndEncodeAgree :
    (Instr.encPut 0xFFFF#16).wf = true ∧ decode (.enc 0x0FFFF#18) = .ok (.encPut 0xFFFF#16) ∧
      decode (.enc 0x2FFFF#18) = .ok .encReset ∧ decode (.dec 0x0FF#10) = .ok (.decPut 0xFF#8) ∧
      decode (.dec 0x2FF#10) = .ok .decReset := by decide

theorem witness_StepRunsTheDecodedInstruction :
    ({ State.reset with cmds := [{ word := .enc 0x00041#18, space := 4 }] } : State).cmds =
        { word := .enc 0x00041#18, space := 4 } :: [] ∧
      decode (.enc 0x00041#18) = .ok (.encPut 0x0041#16) ∧ (Instr.encPut 0x0041#16).wf = true ∧
      Command.unit { word := .enc 0x00041#18, space := 4 } = .enc ∧
      decode (.dec 0x041#10) = .ok (.decPut 0x41#8) ∧
      Command.unit { word := .dec 0x041#10, space := 1 } = .dec := by decide

theorem witness_PlacedWordRunsNext : decodeTableWord 24 0x02262 = some (.encPut 0x2262#16) := by decide

theorem witness_ReservedWordEndsBadcmd :
    ({ State.reset with cmds := [{ word := .enc 0x30000#18, space := 0 }] } : State).cmds =
        { word := .enc 0x30000#18, space := 0 } :: [] ∧
      0x30000 ≤ (0x30000#18).toNat ∧ 0x300 ≤ (0x300#10).toNat := by decide

theorem witness_NoCommandKeepsTheState : State.reset.cmds = [] := rfl

theorem witness_StepKeepsTheInvariant :
    ∃ t, Inv State.reset ∧ step State.reset = .next t := ⟨State.reset, inv_reset_example, rfl⟩

theorem witness_EncResetRestoresTheEncoder : State.reset.enc = encInit := rfl

theorem witness_EncPutOfADirectUnit :
    4 ≤ (encAt encInit 4).encSpace ∧ isDirect (encAt encInit 4).cfg 0x0041#16 = true ∧
      (encAt encInit 4).enc.mode = .direct ∧ (encAt (encPending 4 0x08#6) 4).enc.mode = .base64 := by decide

theorem witness_UnshiftOmissionInTheCanonicalStyles :
    isDirect cfgS1 0x002E#16 = true ∧ isDirect cfgS2 0x007D#16 = true ∧ needUnshift cfgS1 0x002E#16 = false ∧
      needUnshift cfgS1 0x0061#16 = true ∧ needUnshift cfgS2 0x007D#16 = false := by decide

theorem witness_EncPutOfTheShiftUnitInDirectMode :
    4 ≤ (encAt encInit 4).encSpace ∧ (encAt encInit 4).enc.mode = .direct := by decide

theorem witness_EncPutEntersARun :
    EncInv (encAt encInit 4).enc ∧ 4 ≤ (encAt encInit 4).encSpace ∧
      isDirect (encAt encInit 4).cfg 0x2262#16 = false ∧
      0x2262#16 ≠ unitOfByte (encAt encInit 4).cfg.shift ∧ (encAt encInit 4).enc.mode = .direct :=
  ⟨encInv_reset, by decide, by decide, by decide, by decide⟩

theorem witness_EncPutContinuesARun :
    (EncInv (encPending 0 0#6) ∧ EncInv (encPending 4 0x08#6) ∧ EncInv (encPending 2 0x10#6)) ∧
      4 ≤ (encAt (encPending 4 0x08#6) 4).encSpace ∧ isDirect cfgS1 0x002B#16 = false ∧
      (encAt (encPending 4 0x08#6) 4).enc.mode = .base64 :=
  ⟨encInv_pending, by decide, by decide, by decide⟩

theorem witness_EncPutOverflowsBelowFourPlaces :
    (encAt encInit 3).encSpace < 4 ∧ 4 ≤ (encAt encInit 4).encSpace := by decide

theorem witness_EncPutPutsOutOneToThreeBytes :
    EncInv (encAt encInit 4).enc ∧ EncInv (encAt (encPending 2 0x10#6) 4).enc ∧
      4 ≤ (encAt encInit 4).encSpace ∧ isDirect cfgS1 0x0041#16 = true ∧ isDirect cfgS1 0x2262#16 = false :=
  ⟨encInv_reset, encInv_pending.2.2, by decide, by decide, by decide⟩

theorem witness_EncFlushClosesTheRun :
    (encAt encInit 0).enc.mode = .direct ∧ (encAt (encPending 4 0#6) 2).enc.mode = .base64 ∧
      2 ≤ (encAt (encPending 4 0#6) 2).encSpace := by decide

theorem witness_EncFlushOverflowsBelowTwoPlaces :
    (encAt (encPending 0 0#6) 1).enc.mode = .base64 ∧ (encAt (encPending 0 0#6) 1).encSpace < 2 := by decide

theorem witness_EncBytesAreSevenBit :
    ∃ t, runCommand { word := .enc 0x02262#18, space := 4 } State.reset = .next t := ⟨_, rfl⟩

theorem witness_DecPutOfAHighByteIsMalformed : 128 ≤ (0x80#8).toNat := by decide

theorem witness_DecPutOfTheShiftByteOpensARun : (decAt decInit 0).dec.mode = .direct := rfl

theorem witness_DecPutInDirectModeEmitsTheByte :
    (decAt decInit 1).dec.mode = .direct ∧ (0x7F#8).toNat < 128 ∧ 0x7F#8 ≠ (decAt decInit 1).cfg.shift ∧
      1 ≤ (decAt decInit 1).decSpace ∧ (decAt decInit 0).decSpace < 1 := by decide

theorem witness_DecPutOfABase64CharacterAccumulates :
    DecInv defaultParams (decOf .base64 8 0x0003#16 1 0) ∧ DecInv defaultParams (decOf .base64 10 0x03FF#16 1 0) ∧
      (decAt (decOf .base64 10 0x03FF#16 1 0) 1).dec.mode = .base64 ∧
      valueOf (decAt (decOf .base64 10 0x03FF#16 1 0) 1).cfg 0x2F#8 = some 63#6 ∧
      (10 ≤ (decAt (decOf .base64 10 0x03FF#16 1 0) 1).dec.bits →
        1 ≤ (decAt (decOf .base64 10 0x03FF#16 1 0) 1).decSpace) :=
  ⟨decInv_base64 8 _ 1 0 (by decide) (by decide) (by decide) (by decide),
    decInv_base64 10 _ 1 0 (by decide) (by decide) (by decide) (by decide), by decide, by decide, by decide⟩

theorem witness_CntCountsDrainedUnits :
    (decAt (decOf .base64 12 0x0226#16 0 4) 1).dec.mode = .base64 ∧ valueOf cfgS1 0x49#8 = some 8#6 ∧
      (10 ≤ (decAt (decOf .base64 12 0x0226#16 0 4) 1).dec.bits →
        1 ≤ (decAt (decOf .base64 12 0x0226#16 0 4) 1).decSpace) := by decide

theorem witness_InposCountsAcceptedBytes :
    State.reset.par.posw = none ∧ ({ cntw := 16, posw := some 32 } : Params).posw = some 32 := by decide

theorem witness_DecPutOfTheUnshiftByteClosesARun :
    (decAt (decOf .base64 4 0#16 2 8) 0).dec.mode = .base64 ∧
      ¬ ((decOf .base64 4 0#16 2 8).bits = 0 ∧ (decOf .base64 4 0#16 2 8).cnt = 0) ∧
      ((decOf .base64 4 0#16 2 8).bits = 0 ∨ (decOf .base64 4 0#16 2 8).bits = 2 ∨
        (decOf .base64 4 0#16 2 8).bits = 4) ∧ (decOf .base64 4 0#16 2 8).acc = 0#16 := by decide

theorem witness_DecPutOfTheUnshiftByteOnAnEmptyRun :
    DecInv defaultParams (decOf .base64 0 0#16 0 1) ∧ (decOf .base64 0 0#16 0 1).mode = .base64 ∧
      (decOf .base64 0 0#16 0 1).bits = 0 ∧ (decOf .base64 0 0#16 0 1).cnt = 0 ∧
      1 ≤ (decAt (decOf .base64 0 0#16 0 1) 1).decSpace ∧ (decAt (decOf .base64 0 0#16 0 1) 0).decSpace < 1 :=
  ⟨decInv_base64 0 _ 0 1 (by decide) (by decide) (by decide) (by decide), rfl, rfl, rfl, by decide, by decide⟩

/-- For the last clause, the closing shift byte, a style whose shift byte is no base64 character: `CFG` of S3
made non-strict. -/
theorem witness_DecPutClosesARunImplicitly :
    (decOf .base64 4 0#16 2 8).mode = .base64 ∧ cfgS1.strict = false ∧ (0x2E#8).toNat < 128 ∧
      valueOf cfgS1 0x2E#8 = none ∧ 0x2E#8 ≠ cfgS1.unshift ∧ 0x2E#8 ≠ cfgS1.shift ∧
      (decOf .base64 4 0#16 2 8).cnt ≠ 0 ∧ (decOf .base64 4 0#16 2 8).bits = 4 ∧
      (decOf .base64 4 0#16 2 8).acc = 0#16 ∧ 1 ≤ (decAt (decOf .base64 4 0#16 2 8) 1).decSpace ∧
      (decAt (decOf .base64 4 0#16 2 8) 0).decSpace < 1 := by decide

theorem witness_DecPutClosesARunImplicitly_shift_byte :
    setupOk { cfgS3 with strict := false } defaultParams = true ∧
      valueOf { cfgS3 with strict := false } cfgS3.shift = none ∧ cfgS3.shift ≠ cfgS3.unshift := by
  refine ⟨setupOk_of_wf cfgS3_wf defaultParams_wf, by decide, by decide⟩

theorem witness_ForeignByteBeforeAnyUnitIsMalformed :
    DecInv defaultParams (decOf .base64 0 0#16 0 1) ∧ DecInv defaultParams (decOf .base64 12 6#16 0 3) ∧
      cfgS1.strict = false ∧ (0x21#8).toNat < 128 ∧ valueOf cfgS1 0x21#8 = none ∧ 0x21#8 ≠ cfgS1.unshift :=
  ⟨decInv_base64 0 _ 0 1 (by decide) (by decide) (by decide) (by decide),
    decInv_base64 12 _ 0 3 (by decide) (by decide) (by decide) (by decide), by decide, by decide, by decide,
    by decide⟩

theorem witness_DecFlushInDirectModeIsClean : (decAt decInit 0).dec.mode = .direct := rfl

theorem witness_DecFlushOfAnOpenRunIsMalformed : (decAt (decOf .base64 2 0#16 1 4) 0).dec.mode = .base64 := rfl

theorem witness_MalformedByteStaysMalformed :
    ∃ t, issue (.decPut 0x80#8) 0 State.reset = .next t ∧ t.decRes.status = .malformed := ⟨_, rfl, rfl⟩

theorem witness_MalformedFlagIsSticky :
    ({ decInit with mal := true, malpos := 4 } : DecState).mal = true ∧
      decode (.dec 0x062#10) ≠ .ok .decReset := by decide

theorem witness_OutputIsAllOrNothing :
    EncInv State.reset.enc ∧ Command.unit { word := .enc 0x02262#18, space := 4 } = .enc ∧
      Command.unit { word := .dec 0x041#10, space := 1 } = .dec := ⟨encInv_reset, rfl, rfl⟩

theorem witness_OverflowedCommandCanBeIssuedAgain :
    ∃ t, runCommand { word := .enc 0x00041#18, space := 3 } State.reset = .next t ∧
      unitStatus (Command.unit { word := .enc 0x00041#18, space := 3 }) t = .overflow := ⟨_, rfl, rfl⟩

theorem witness_BadAlphabetFailsConstruction :
    ([0x41] : List Nat).length ≠ 64 ∧ ¬ (List.replicate 64 0x41).Nodup := by decide

theorem witness_BuiltTableIsInvertible :
    (alphaS1.map BitVec.toNat).length = 64 ∧ (alphaS1.map BitVec.toNat).Nodup ∧
      (∀ x ∈ alphaS1.map BitVec.toNat, x < 128) ∧ (∃ x ∈ [128], 128 ≤ x) ∧
      tblNew (alphaS1.map BitVec.toNat) = .ok { alpha := alphaS1, rev := revOf alphaS1 } := by
  refine ⟨by decide +kernel, by decide +kernel, by decide +kernel, by decide, ?_⟩
  have h : (alphaS1.map BitVec.toNat).map byteOf = alphaS1 := by decide +kernel
  rw [tblNew, if_neg (by decide +kernel), if_neg (by decide +kernel), if_neg (by decide +kernel), h]

theorem witness_LookupsReadTheTables :
    (0x7F#8).toNat < 128 ∧ 128 ≤ (0x80#8).toNat ∧ (0x007F#16).toNat < 128 ∧ 128 ≤ (0x0080#16).toNat := by
  decide

theorem witness_FlushIsIdempotent :
    (∃ e, encEnd 2 (encAt (encPending 4 0x08#6) 0) = .next e ∧ e.result = .underflow) ∧
      (decAt decInit 0).dec.mode = .direct := ⟨⟨_, rfl, rfl⟩, rfl⟩

theorem witness_DirectCharactersEncodeToThemselves :
    isDirect State.reset.cfg 0x0041#16 = true ∧ 4 ≤ 4 := by decide

/-- The result of a buffer-level call. -/
def callResult (o : CallOutcome CodeUnit) : Option CallResult :=
  match o with
  | .next c => some c.result
  | .fault _ => none
  | .refused _ => none

/-- Section 2.9: a call for each result: `"a"` with no place, `"\x80"` and `"a"` with two places. -/
theorem witness_DecoderChunkSizeDoesNotMatter :
    callResult (decBuf [0x61#8] 0 false State.reset) = some .overflow ∧
      callResult (decBuf [0x80#8] 2 true State.reset) = some (.malformed 1 0) ∧
      callResult (decBuf [0x61#8] 2 true State.reset) = some .underflow := by
  decide +kernel

theorem witness_RunLayoutIsTheConcatenatedBits :
    0x2262#16 ≠ unitOfByte State.reset.cfg.shift ∧
      (∀ x ∈ [0x2262#16, 0x002B#16], isDirect State.reset.cfg x = false) :=
  ⟨by decide,
    List.forall_mem_cons.2
      ⟨by decide, List.forall_mem_cons.2 ⟨by decide, fun _ h => absurd h List.not_mem_nil⟩⟩⟩

end Sys2Proof.Tests
end

section
/-! The scope statements (spec/00_scope.md): a step is `exec` of the decoded command, and every step answers a
state with the configuration and widths unchanged. -/

namespace Sys2Proof.Machine

/-! ## Presenting a command at a port of either unit (R73) -/

@[simp] theorem present_cmds (c : Command) (s : State) : (present c s).cmds = s.cmds := by
  obtain ⟨w | w, n⟩ := c
  · exact present_enc_cmds w n s
  · exact present_dec_cmds w n s

@[simp] theorem present_setup (c : Command) (s : State) : (present c s).setup = s.setup := by
  obtain ⟨w | w, n⟩ := c
  · exact present_enc_setup w n s
  · exact present_dec_setup w n s

/-- At ENC's port the one field driven is ENC's `space` input. -/
theorem present_of_unit_enc {c : Command} (h : c.unit = .enc) (s : State) :
    present c s = { s with encSpace := c.space } := by
  obtain ⟨w | w, n⟩ := c
  · rfl
  · cases h

/-- At DEC's port the one field driven is DEC's `space` input. -/
theorem present_of_unit_dec {c : Command} (h : c.unit = .dec) (s : State) :
    present c s = { s with decSpace := c.space } := by
  obtain ⟨w | w, n⟩ := c
  · cases h
  · rfl

/-! ## One command and one step -/

/-- A word that decodes to `i` is carried out as `i`, once its inputs are driven (R58, R73). -/
theorem runCommand_of_decode_ok {c : Command} {i : Instr} (h : decode c.word = .ok i) (s : State) :
    runCommand c s = exec i (present c s) := by
  simp only [runCommand, h]

/-- Whatever the word, a command ends with a next state, and the configuration and the widths are kept
(R13, R65). -/
theorem runCommand_keeps_setup (c : Command) (s : State) :
    ∃ t, runCommand c s = .next t ∧ t.setup = s.setup := by
  obtain ⟨w | w, n⟩ := c
  · obtain ⟨x, hx⟩ := runCommand_enc w n s
    obtain ⟨⟨-, hsetup, -, -⟩, -⟩ := finishEnc_frame x (present ⟨.enc w, n⟩ s)
    exact ⟨_, hx, hsetup.trans (present_setup _ s)⟩
  · obtain ⟨x, hx⟩ := runCommand_dec w n s
    obtain ⟨⟨-, hsetup, -, -⟩, -⟩ := finishDec_frame x (present ⟨.dec w, n⟩ s)
    exact ⟨_, hx, hsetup.trans (present_setup _ s)⟩

/-- Without a command a step leaves the state as it is (R235). -/
theorem step_nil {s : State} (h : s.cmds = []) : step s = .next s := by
  simp only [step, h]

/-! ## The obligations -/

/-- Settles O4: the step's command is run, and running a decoded word is `exec` at the presented state. -/
theorem stepRunsTheDecodedInstruction : Obligations.StepRunsTheDecodedInstruction := by
  intro s c rest i hcmds hdecode _
  have hstep : step s = exec i (present c { s with cmds := rest }) :=
    (step_cons s c rest hcmds).trans (runCommand_of_decode_ok hdecode _)
  exact ⟨hstep, present_cmds c _, fun henc => present_of_unit_enc henc _,
    fun hdec => present_of_unit_dec hdec _⟩

/-- Settles O11, by cases on the host's commands: no command keeps the whole state, and a command keeps the
configuration. -/
theorem everyStepEndsWithAStatusAndKeepsCfg : Obligations.EveryStepEndsWithAStatusAndKeepsCfg := by
  intro s
  cases hcmds : s.cmds with
  | nil => exact ⟨s, step_nil hcmds, rfl⟩
  | cons c rest =>
    rw [step_cons s c rest hcmds]
    exact runCommand_keeps_setup c { s with cmds := rest }

end Sys2Proof.Machine
end

section
/-! The state statements (spec/10_state.md): the invariant at reset and over every step, and the counters and
the sticky flag of `D`. What a `DEC_PUT` can do is said once, by `RunAfterPut` and `decPut_cases`. -/

namespace Sys2Proof.Machine

/-! ## Each command as an end of its unit -/

@[simp] theorem exec_encPut (cu : CodeUnit) (s : State) :
    exec (.encPut cu) s = .next (finishEnc (encPut s.cfg s.enc cu s.encSpace) s) := rfl

@[simp] theorem exec_encFlush (s : State) :
    exec .encFlush s = .next (finishEnc (encFlush s.cfg s.enc s.encSpace) s) := rfl

@[simp] theorem exec_encReset (s : State) : exec .encReset s = .next (finishEnc (.ok encInit []) s) := rfl

@[simp] theorem exec_decPut (b : Byte) (s : State) :
    exec (.decPut b) s = .next (finishDec (decPut s.cfg s.par s.dec b s.decSpace) s) := rfl

@[simp] theorem exec_decFlush (s : State) : exec .decFlush s = .next (finishDec (decFlush s.dec) s) := rfl

@[simp] theorem exec_decReset (s : State) : exec .decReset s = .next (finishDec (.ok decInit none) s) := rfl

/-- A reserved word is carried out as `BADCMD` at its unit, once its inputs are driven (R79, R213). -/
theorem runCommand_of_decode_error {c : Command} {e : DecodeError} (h : decode c.word = .error e)
    (s : State) : runCommand c s = .next (takeFault e.unit .badcmd (present c s)) := by
  simp only [runCommand, h]

@[simp] theorem present_enc (c : Command) (s : State) : (present c s).enc = s.enc := by
  obtain ⟨w | w, n⟩ := c
  · exact present_enc_enc w n s
  · exact present_dec_enc w n s

@[simp] theorem present_dec (c : Command) (s : State) : (present c s).dec = s.dec := by
  obtain ⟨w | w, n⟩ := c
  · exact present_enc_dec w n s
  · exact present_dec_dec w n s

@[simp] theorem present_encOut (c : Command) (s : State) : (present c s).encOut = s.encOut := by
  obtain ⟨w | w, n⟩ := c
  · exact present_enc_encOut w n s
  · exact present_dec_encOut w n s

/-- An ENC command's end leaves `D`. -/
@[simp] theorem finishEnc_dec (x : EncEnd) (s : State) : (finishEnc x s).dec = s.dec := by
  obtain ⟨⟨⟨hdec, -⟩, -⟩, -⟩ := finishEnc_frame x s
  exact hdec

/-! ## What a fault outcome records in `D` -/

@[simp] theorem decAfterFault_inpos (st : Status) (d : DecState) :
    (decAfterFault st d).inpos = d.inpos := by
  cases st <;> rfl

theorem decAfterFault_mal (st : Status) {d : DecState} (h : d.mal = true) :
    (decAfterFault st d).mal = true := by
  cases st
  case malformed => rfl
  all_goals exact h

/-! ## What accepting a byte does to `D` (R153) -/

/-- `D` with one more base64 character in its run (R158, R160), before the byte is counted. -/
def absorb (p : Params) (d : DecState) (v : Sextet) : DecState :=
  { d with
    bits := (unpack d.bits d.acc v).bits
    acc := (unpack d.bits d.acc v).acc
    cnt := if (unpack d.bits d.acc v).unit.isSome then cntNext p d.cnt else d.cnt }

/-- An accepted base64 character is absorbed and counted (R158, R159). -/
theorem decChar_of_room {p : Params} {d : DecState} {v : Sextet} {n : Nat} (h : 10 ≤ d.bits → 1 ≤ n) :
    decChar p d v n = .ok (accept p (absorb p d v)) (unpack d.bits d.acc v).unit := by
  have hroom : ¬ (16 ≤ d.bits + 6 ∧ n < 1) := by omega
  rw [decChar, if_neg hroom]
  rfl

/-- A character that drains nothing adds six bits. -/
theorem absorb_short (p : Params) {d : DecState} (v : Sextet) (h : d.bits < 10) :
    absorb p d v =
      { d with bits := d.bits + 6, acc := BitVec.ofNat 16 (d.acc.toNat * 64 + v.toNat) } := by
  rw [absorb, unpack_short _ _ _ h]
  rfl

/-- A character that drains a code unit keeps what is left of the bits and counts the unit. -/
theorem absorb_full (p : Params) {d : DecState} (v : Sextet) (h : 10 ≤ d.bits) :
    absorb p d v =
      { d with
        bits := d.bits - 10
        acc := BitVec.ofNat 16 ((d.acc.toNat * 64 + v.toNat) % 2 ^ (d.bits - 10))
        cnt := cntNext p d.cnt } := by
  rw [absorb, unpack_full _ _ _ h]
  rfl

/-- The ways in which a byte that `DEC_PUT` accepts changes `D`, before the byte is counted. -/
inductive RunAfterPut (p : Params) (d : DecState) : DecState → Prop
  /-- A byte put out in Direct mode (R156). -/
  | kept (hmode : d.mode = .direct) : RunAfterPut p d d
  /-- The shift byte, in Direct mode or after an implicit close (R155, R166). -/
  | opened : RunAfterPut p d (openRun d)
  /-- The unshift byte after a run, or a foreign byte that closes it and is put out (R162, R166). -/
  | closed : RunAfterPut p d (closeRun d)
  /-- The unshift byte on the empty run (R163). -/
  | emptied (hbits : d.bits = 0) (hcnt : d.cnt = 0) : RunAfterPut p d { d with mode := .direct }
  /-- A base64 character in Base64 mode (R158). -/
  | absorbed (hmode : d.mode = .base64) (v : Sextet) : RunAfterPut p d (absorb p d v)

/-- How a `DEC_PUT` ends at `D`: a fault status, or one of the changes above with the byte counted. -/
inductive PutEnd (p : Params) (d : DecState) : DecEnd → Prop
  | fault {st : Status} (h : st ≠ .ok) : PutEnd p d (.fault st)
  | accepted {r : DecState} (h : RunAfterPut p d r) (out : Option CodeUnit) :
    PutEnd p d (.ok (accept p r) out)

/-- `direct_byte` opens a run or leaves `d`, here any state `r` that a put at `d` may leave (R155, R156). -/
theorem directByte_putEnd (c : Cfg) {p : Params} {d r : DecState} (b : Byte) (n : Nat)
    (hopen : RunAfterPut p d (openRun r)) (hkeep : RunAfterPut p d r) :
    PutEnd p d (directByte c p r b n) := by
  unfold directByte
  split_ifs
  · exact .accepted hopen _
  · exact .fault nofun
  · exact .accepted hkeep _

theorem decChar_putEnd (p : Params) {d : DecState} (hmode : d.mode = .base64) (v : Sextet) (n : Nat) :
    PutEnd p d (decChar p d v n) := by
  by_cases hroom : 10 ≤ d.bits → 1 ≤ n
  · rw [decChar_of_room hroom]
    exact .accepted (.absorbed hmode v) _
  · rw [decChar, if_pos (by omega)]
    exact .fault nofun

theorem decUnshift_putEnd (c : Cfg) (p : Params) (d : DecState) (n : Nat) :
    PutEnd p d (decUnshift c p d n) := by
  unfold decUnshift
  split_ifs with hempty
  · exact .fault nofun
  · exact .accepted (.emptied hempty.1 hempty.2) _
  · exact .accepted .closed _
  · exact .fault nofun

theorem decForeign_putEnd (c : Cfg) (p : Params) (d : DecState) (b : Byte) (n : Nat) :
    PutEnd p d (decForeign c p d b n) := by
  unfold decForeign
  split_ifs
  · exact .fault nofun
  · exact .fault nofun
  · exact directByte_putEnd c b n .opened .closed
  · exact .fault nofun

/-- Every `DEC_PUT` ends in one of the ways of `PutEnd`: the classes of R152 one by one. -/
theorem decPut_cases (u : Setup) (p : Params) (d : DecState) (b : Byte) (n : Nat) :
    PutEnd p d (decPut u.cfg p d b n) := by
  by_cases hb : 128 ≤ b.toNat
  · rw [decPut_high u.cfg p d b n hb]
    exact .fault nofun
  have hb : b.toNat < 128 := by omega
  cases hmode : d.mode with
  | direct =>
    rw [decPut_direct u.cfg p d b n hb hmode]
    exact directByte_putEnd u.cfg b n .opened (.kept hmode)
  | base64 =>
    cases hv : valueOf u.cfg b with
    | some v =>
      rw [decPut_char u.cfg p d b v n hv hmode]
      exact decChar_putEnd p hmode v n
    | none =>
      by_cases hu : b = u.cfg.unshift
      · rw [hu, decPut_unshift u p d n hmode]
        exact decUnshift_putEnd u.cfg p d n
      · rw [decPut_foreign u.cfg p d b n hb hmode hv hu]
        exact decForeign_putEnd u.cfg p d b n

/-- No byte changes the diagnostics or the position before it is counted. -/
theorem RunAfterPut.diagnostics {p : Params} {d r : DecState} (h : RunAfterPut p d r) :
    r.mal = d.mal ∧ r.malpos = d.malpos ∧ r.inpos = d.inpos := by
  cases h <;> exact ⟨rfl, rfl, rfl⟩

/-! ## The counters' steps -/

theorem posNext_unbounded {p : Params} (h : p.posw = none) (n : Nat) : posNext p n = n + 1 := by
  simp [posNext, posWrap, h]

theorem posNext_bounded {p : Params} {w : Nat} (h : p.posw = some w) (n : Nat) :
    posNext p n = (n + 1) % 2 ^ w := by
  simp [posNext, posWrap, h]

/-- A counted position fits its `POSW` bits (R42). -/
theorem posFits_posNext (p : Params) (n : Nat) : PosFits p (posNext p n) := by
  intro w hw
  rw [posNext_bounded hw]
  exact Nat.mod_lt _ (Nat.two_pow_pos w)

theorem posFits_zero (p : Params) : PosFits p 0 := fun w _ => Nat.two_pow_pos w

/-- Once a code unit is drained the count is not zero, since `CNTW` is at least 1 (R39). -/
theorem cntNext_pos {p : Params} (h : 1 ≤ p.cntw) (n : Nat) : 0 < cntNext p n := by
  have htop : 2 ^ 1 ≤ 2 ^ p.cntw := Nat.pow_le_pow_right (by decide) h
  unfold cntNext
  omega

theorem cntNext_le (p : Params) (n : Nat) : cntNext p n ≤ 2 ^ p.cntw - 1 := Nat.min_le_right ..

/-! ## The decoder invariant (R44) -/

/-- `D` with no bits and no count satisfies the invariant, in either mode and whatever its diagnostics. -/
theorem decInv_of_empty {p : Params} {d : DecState} (hbits : d.bits = 0) (hacc : d.acc = 0#16)
    (hcnt : d.cnt = 0) (hin : PosFits p d.inpos) (hmal : PosFits p d.malpos) : DecInv p d :=
  ⟨by omega, by simp [hbits, hacc], fun _ => ⟨hbits, hacc, hcnt⟩, fun _ _ => .inl hbits, by omega, hin, hmal⟩

theorem decInv_decInit (p : Params) : DecInv p decInit :=
  decInv_of_empty rfl rfl rfl (posFits_zero p) (posFits_zero p)

/-- With nothing buffered the accumulator is zero. -/
theorem acc_eq_zero_of_bits {p : Params} {d : DecState} (hinv : DecInv p d) (hbits : d.bits = 0) :
    d.acc = 0#16 := by
  obtain ⟨-, hacc, -⟩ := hinv
  apply BitVec.eq_of_toNat_eq
  simpa [hbits] using hacc

/-- Absorbing a character keeps the invariant: the buffered bits stay below `2 ^ bits`, and a run of which
nothing is drained holds 0, 6 or 12 bits. -/
theorem absorb_keeps_decInv {p : Params} {d : DecState} (hp : ParamsWF p) (hinv : DecInv p d)
    (hmode : d.mode = .base64) (v : Sextet) : DecInv p (absorb p d v) := by
  obtain ⟨⟨heven, hle⟩, hacc, -, hrun, hcnt, hin, hmal⟩ := hinv
  have hndirect : d.mode ≠ .direct := by simp [hmode]
  by_cases hbits : d.bits < 10
  · rw [absorb_short p v hbits]
    have hv : v.toNat < 64 := v.isLt
    have hacc' : d.acc.toNat * 64 + v.toNat < 2 ^ (d.bits + 6) := by
      rw [Nat.pow_add]
      omega
    refine ⟨⟨?_, ?_⟩, ?_, fun h => absurd h hndirect, fun _ hzero => ?_, hcnt, hin, hmal⟩
    · show (d.bits + 6) % 2 = 0
      omega
    · show d.bits + 6 ≤ 14
      omega
    · exact lt_of_le_of_lt (BitVec.toNat_ofNat .. ▸ Nat.mod_le ..) hacc'
    · have := hrun hmode hzero
      show d.bits + 6 = 0 ∨ d.bits + 6 = 6 ∨ d.bits + 6 = 12
      omega
  · rw [absorb_full p v (by omega)]
    refine ⟨⟨?_, ?_⟩, ?_, fun h => absurd h hndirect, fun _ hzero => ?_, cntNext_le p _, hin, hmal⟩
    · show (d.bits - 10) % 2 = 0
      omega
    · show d.bits - 10 ≤ 14
      omega
    · exact lt_of_le_of_lt (BitVec.toNat_ofNat .. ▸ Nat.mod_le ..) (Nat.mod_lt _ (Nat.two_pow_pos _))
    · exact absurd hzero (cntNext_pos hp.1 d.cnt).ne'

/-- Every change that an accepted byte makes keeps the invariant. -/
theorem RunAfterPut.keeps_decInv {p : Params} {d r : DecState} (hp : ParamsWF p) (hinv : DecInv p d)
    (h : RunAfterPut p d r) : DecInv p r := by
  have ⟨_, _, _, _, _, hin, hmal⟩ := hinv
  cases h with
  | kept => exact hinv
  | opened => exact decInv_of_empty rfl rfl rfl hin hmal
  | closed => exact decInv_of_empty rfl rfl rfl hin hmal
  | emptied hbits hcnt =>
    have hacc := acc_eq_zero_of_bits hinv hbits
    exact decInv_of_empty hbits hacc hcnt hin hmal
  | absorbed hmode v => exact absorb_keeps_decInv hp hinv hmode v

theorem accept_keeps_decInv {p : Params} {d : DecState} (hinv : DecInv p d) : DecInv p (accept p d) := by
  obtain ⟨hbits, hacc, hdirect, hrun, hcnt, -, hmal⟩ := hinv
  exact ⟨hbits, hacc, hdirect, hrun, hcnt, posFits_posNext p d.inpos, hmal⟩

/-- A fault outcome keeps the invariant: at most it copies `D.inpos` to `D.malpos`. -/
theorem decAfterFault_keeps_decInv {p : Params} {d : DecState} (st : Status) (hinv : DecInv p d) :
    DecInv p (decAfterFault st d) := by
  cases st
  case malformed =>
    obtain ⟨hbits, hacc, hdirect, hrun, hcnt, hin, -⟩ := hinv
    exact ⟨hbits, hacc, hdirect, hrun, hcnt, hin, hin⟩
  all_goals exact hinv

/-! ## The encoder invariant (R37) and the bytes put out (R137) -/

@[simp] theorem sevenBit_nil : SevenBit [] := List.forall_mem_nil _

@[simp] theorem sevenBit_cons (b : Byte) (l : List Byte) :
    SevenBit (b :: l) ↔ b.toNat < 128 ∧ SevenBit l := List.forall_mem_cons

@[simp] theorem sevenBit_append (l m : List Byte) : SevenBit (l ++ m) ↔ SevenBit l ∧ SevenBit m :=
  List.forall_mem_append

theorem sevenBit_map_charOf (u : Setup) (vs : List Sextet) : SevenBit (vs.map (charOf u.cfg)) :=
  List.forall_mem_map.2 fun v _ => charOf_lt u v

theorem sevenBit_padChar (u : Setup) (e : EncState) : SevenBit (padChar u.cfg e) := by
  unfold padChar
  split_ifs <;> simp [charOf_lt u e.acc]

theorem shift_lt (u : Setup) : u.cfg.shift.toNat < 128 := by
  obtain ⟨⟨-, -, ⟨h, -⟩, -⟩, -⟩ := setup_wf u
  exact h

theorem unshift_lt (u : Setup) : u.cfg.unshift.toNat < 128 := by
  obtain ⟨⟨-, -, ⟨-, h⟩, -⟩, -⟩ := setup_wf u
  exact h

theorem lowByte_lt_of_isDirect {c : Cfg} {cu : CodeUnit} (h : isDirect c cu = true) :
    (lowByte cu).toNat < 128 := by
  have := lt_of_isDirect h
  rw [lowByte_toNat]
  omega

/-- With no bits pending the encoder satisfies its invariant, in either mode. -/
theorem encInv_of_empty (m : Mode) : EncInv { mode := m, pending := 0, acc := 0#6 } :=
  ⟨.inl rfl, rfl, fun _ => ⟨rfl, rfl⟩⟩

/-- Bits over `k` zero bits satisfy the invariant in Base64 mode. -/
theorem encInv_of_leftover {m k : Nat} (hm : m = 2 ∨ m = 4) (h : m + k = 6) (x : BitVec m) :
    EncInv { mode := .base64, pending := m, acc := BitVec.cast h (x ++ 0#k) } := by
  refine ⟨.inr hm, ?_, nofun⟩
  obtain rfl : k = 6 - m := by omega
  show (BitVec.cast h (x ++ 0#(6 - m))).toNat % 2 ^ (6 - m) = 0
  rw [sextet_append_toNat h, BitVec.toNat_ofNat, Nat.zero_mod, Nat.add_zero, Nat.mul_mod_left]

/-- What `pack` leaves pending satisfies the invariant: the three cases of R130. -/
theorem encInv_pack {e : EncState} (hinv : EncInv e) (cu : CodeUnit) :
    EncInv
      { mode := .base64
        pending := (pack e.pending e.acc cu).pending
        acc := (pack e.pending e.acc cu).acc } := by
  obtain ⟨mode, pending, acc⟩ := e
  obtain ⟨rfl | rfl | rfl, hacc, -⟩ := hinv
  · obtain rfl : acc = 0#6 := BitVec.eq_of_toNat_eq ((Nat.mod_eq_of_lt acc.isLt).symm.trans hacc)
    rw [pack_zero]
    exact encInv_of_leftover (k := 2) (.inr rfl) rfl (cu.extractLsb' 0 4)
  · rw [pack_two]
    exact encInv_of_empty .base64
  · rw [pack_four]
    exact encInv_of_leftover (k := 4) (.inl rfl) rfl (cu.extractLsb' 0 2)

/-- An end of an ENC command that keeps the machine's invariant: on `OK` the new `E` has it and the bytes put
out are below 128. -/
def EncEnd.Safe : EncEnd → Prop
  | .ok e out => EncInv e ∧ SevenBit out
  | .fault _ => True

theorem encDirect_safe (u : Setup) {e : EncState} (hinv : EncInv e) {cu : CodeUnit}
    (hd : isDirect u.cfg cu = true) : (encDirect u.cfg e cu).Safe := by
  have hlow := lowByte_lt_of_isDirect hd
  unfold encDirect
  split
  · exact ⟨hinv, by simp [hlow]⟩
  · refine ⟨encInv_of_empty .direct, ?_⟩
    split_ifs <;> simp [sevenBit_padChar, unshift_lt, hlow]

theorem encPacked_safe (u : Setup) {e : EncState} (hinv : EncInv e) (cu : CodeUnit) :
    (encPacked u.cfg e cu).Safe := by
  refine ⟨encInv_pack hinv cu, (sevenBit_append ..).2 ⟨?_, sevenBit_map_charOf u _⟩⟩
  split <;> simp [shift_lt]

theorem eq_base64_of_ne_direct {m : Mode} (h : m ≠ .direct) : m = .base64 := by
  cases m with
  | direct => exact absurd rfl h
  | base64 => rfl

/-- Every `ENC_PUT` keeps the invariant: the classes of R123 one by one. -/
theorem encPut_safe (u : Setup) {e : EncState} (hinv : EncInv e) (cu : CodeUnit) (n : Nat) :
    (encPut u.cfg e cu n).Safe := by
  by_cases hn : n < 4
  · rw [encPut_overflow _ _ _ _ hn]
    trivial
  have hn : 4 ≤ n := by omega
  cases hd : isDirect u.cfg cu with
  | true =>
    rw [encPut_direct _ _ _ _ hn hd]
    exact encDirect_safe u hinv hd
  | false =>
    by_cases hs : cu = unitOfByte u.cfg.shift ∧ e.mode = .direct
    · obtain ⟨rfl, hmode⟩ := hs
      rw [encPut_shift _ _ _ hn hd hmode]
      exact ⟨hinv, by simp [shift_lt, unshift_lt]⟩
    · have hother : cu ≠ unitOfByte u.cfg.shift ∨ e.mode = .base64 :=
        (not_and_or.1 hs).imp_right eq_base64_of_ne_direct
      rw [encPut_other _ _ _ _ hn hd hother]
      exact encPacked_safe u hinv cu

theorem encFlush_safe (u : Setup) {e : EncState} (hinv : EncInv e) (n : Nat) :
    (encFlush u.cfg e n).Safe := by
  unfold encFlush
  split
  · exact ⟨hinv, sevenBit_nil⟩
  · split_ifs
    · trivial
    · exact ⟨encInv_of_empty .direct, by simp [sevenBit_padChar, unshift_lt]⟩

/-! ## The invariant of the machine -/

theorem inv_fresh (u : Setup) : Inv (State.fresh u) :=
  ⟨encInv_of_empty .direct, decInv_decInit u.par, sevenBit_nil⟩

theorem present_keeps_inv {s : State} (hinv : Inv s) (c : Command) : Inv (present c s) := by
  simpa [Inv, State.par] using hinv

theorem takeFault_keeps_inv {s : State} (hinv : Inv s) (u : UnitId) (st : Status) :
    Inv (takeFault u st s) := by
  obtain ⟨henc, hdec, hout⟩ := hinv
  cases u
  · exact ⟨henc, hdec, hout⟩
  · exact ⟨henc, decAfterFault_keeps_decInv st hdec, hout⟩

theorem finishEnc_keeps_inv {s : State} (hinv : Inv s) {x : EncEnd} (hx : x.Safe) :
    Inv (finishEnc x s) := by
  cases x with
  | ok e out =>
    obtain ⟨henc, hout⟩ := hx
    obtain ⟨-, hdec, hout'⟩ := hinv
    exact ⟨henc, hdec, (sevenBit_append ..).2 ⟨hout', hout⟩⟩
  | fault st => exact takeFault_keeps_inv hinv .enc st

theorem finishDec_ok_keeps_inv {s : State} (hinv : Inv s) {d : DecState} (hd : DecInv s.par d)
    (out : Option CodeUnit) : Inv (finishDec (.ok d out) s) := by
  obtain ⟨henc, -, hout⟩ := hinv
  exact ⟨henc, hd, hout⟩

theorem finishDec_put_keeps_inv {s : State} (hinv : Inv s) {x : DecEnd} (hx : PutEnd s.par s.dec x) :
    Inv (finishDec x s) := by
  have ⟨_, hdec, _⟩ := hinv
  cases hx with
  | fault => exact takeFault_keeps_inv hinv .dec _
  | accepted h out =>
    exact finishDec_ok_keeps_inv hinv
      (accept_keeps_decInv (h.keeps_decInv (setup_wf s.setup).2 hdec)) out

theorem finishDec_flush_keeps_inv {s : State} (hinv : Inv s) : Inv (finishDec (decFlush s.dec) s) := by
  unfold decFlush
  split
  · exact takeFault_keeps_inv hinv .dec .malformed
  · have ⟨_, hdec, _⟩ := hinv
    exact finishDec_ok_keeps_inv hinv hdec none

/-- Each of the six commands keeps the invariant. -/
theorem exec_keeps_inv {s : State} (hinv : Inv s) (i : Instr) : ∃ t, exec i s = .next t ∧ Inv t := by
  have ⟨henc, _, _⟩ := hinv
  cases i with
  | encPut cu => exact ⟨_, exec_encPut cu s, finishEnc_keeps_inv hinv (encPut_safe s.setup henc cu _)⟩
  | encFlush => exact ⟨_, exec_encFlush s, finishEnc_keeps_inv hinv (encFlush_safe s.setup henc _)⟩
  | encReset =>
    exact ⟨_, exec_encReset s, finishEnc_keeps_inv hinv ⟨encInv_of_empty .direct, sevenBit_nil⟩⟩
  | decPut b => exact ⟨_, exec_decPut b s, finishDec_put_keeps_inv hinv (decPut_cases s.setup ..)⟩
  | decFlush => exact ⟨_, exec_decFlush s, finishDec_flush_keeps_inv hinv⟩
  | decReset => exact ⟨_, exec_decReset s, finishDec_ok_keeps_inv hinv (decInv_decInit s.par) none⟩

/-- Whatever the word, a command at its port keeps the invariant. -/
theorem runCommand_keeps_inv {s : State} (hinv : Inv s) (c : Command) :
    ∃ t, runCommand c s = .next t ∧ Inv t := by
  have hpresent := present_keeps_inv hinv c
  cases hdecode : decode c.word with
  | ok i =>
    rw [runCommand_of_decode_ok hdecode]
    exact exec_keeps_inv hpresent i
  | error e => exact ⟨_, runCommand_of_decode_error hdecode s, takeFault_keeps_inv hpresent e.unit _⟩

/-! ## The position (R42) -/

/-- A `DEC_PUT` counts its byte exactly when it accepts it. -/
theorem finishDec_put_inpos (s : State) {x : DecEnd} (hx : PutEnd s.par s.dec x) :
    (finishDec x s).dec.inpos =
      if (finishDec x s).decRes.status = .ok then posNext s.par s.dec.inpos else s.dec.inpos := by
  cases hx with
  | fault hst => simp [hst]
  | accepted h out =>
    obtain ⟨-, -, hin⟩ := h.diagnostics
    simp [accept, hin]

/-! ## The sticky flag (R43, R224) -/

theorem finishDec_put_keeps_mal {s : State} (hmal : s.dec.mal = true) {x : DecEnd}
    (hx : PutEnd s.par s.dec x) : (finishDec x s).dec.mal = true := by
  cases hx with
  | fault => exact decAfterFault_mal _ hmal
  | accepted h out =>
    obtain ⟨hm, -, -⟩ := h.diagnostics
    exact hm.trans hmal

/-- A flag that is set stays set in every command but `DEC_RESET`. -/
theorem exec_keeps_mal {s : State} (hmal : s.dec.mal = true) {i : Instr} (hi : i ≠ .decReset) :
    ∃ t, exec i s = .next t ∧ t.dec.mal = true := by
  cases i with
  | encPut cu => exact ⟨_, exec_encPut cu s, (congrArg DecState.mal (finishEnc_dec _ s)).trans hmal⟩
  | encFlush => exact ⟨_, exec_encFlush s, (congrArg DecState.mal (finishEnc_dec _ s)).trans hmal⟩
  | encReset => exact ⟨_, exec_encReset s, hmal⟩
  | decPut b => exact ⟨_, exec_decPut b s, finishDec_put_keeps_mal hmal (decPut_cases s.setup ..)⟩
  | decFlush =>
    refine ⟨_, exec_decFlush s, ?_⟩
    unfold decFlush
    split
    · rfl
    · exact hmal
  | decReset => exact absurd rfl hi

/-! ## The obligations -/

/-- Settles O10: a step without a command keeps the whole state, and every command keeps the invariant. -/
theorem stepKeepsTheInvariant : Obligations.StepKeepsTheInvariant := by
  intro s t hinv hstep
  cases hcmds : s.cmds with
  | nil =>
    cases (step_nil hcmds).symm.trans hstep
    exact hinv
  | cons c rest =>
    obtain ⟨t', ht', hinv'⟩ := runCommand_keeps_inv (s := { s with cmds := rest }) hinv c
    cases ht'.symm.trans ((step_cons s c rest hcmds).symm.trans hstep)
    exact hinv'

/-- Settles O30: the three clauses are the two ends of a `DEC_PUT`, the second by the width of `POSW`. -/
theorem inposCountsAcceptedBytes : Obligations.InposCountsAcceptedBytes := by
  intro b s
  have hin := finishDec_put_inpos s (decPut_cases s.setup s.par s.dec b s.decSpace)
  refine ⟨_, exec_decPut b s, fun hst => ?_, fun hst hw => ?_, fun w hst hw => ?_⟩
  · exact hin.trans (if_neg hst)
  · exact (hin.trans (if_pos hst)).trans (posNext_unbounded hw _)
  · exact (hin.trans (if_pos hst)).trans (posNext_bounded hw _)

/-- Settles O40: a reserved word leaves `D`, and of the six commands only `DEC_RESET` clears the flag. -/
theorem malformedFlagIsSticky : Obligations.MalformedFlagIsSticky := by
  intro c s hmal hreset
  have hpresent : (present c s).dec.mal = true := by rw [present_dec, hmal]
  cases hdecode : decode c.word with
  | ok i =>
    rw [runCommand_of_decode_ok hdecode]
    exact exec_keeps_mal hpresent fun hi => hreset (hi ▸ hdecode)
  | error e =>
    refine ⟨_, runCommand_of_decode_error hdecode s, ?_⟩
    cases e <;> exact hpresent

/-- Settles O8: every field of a fresh state is the one written in `encInit` and `decInit`. -/
theorem resetStateIsJustConstructed : Obligations.ResetStateIsJustConstructed :=
  ⟨fun u => ⟨fresh_enc u, fresh_dec u, fresh_encOut u, fresh_decOut u, fresh_setup u⟩, rfl⟩

/-- Settles O9: `State.reset` is a fresh state. -/
theorem invariantHoldsAtReset : Obligations.InvariantHoldsAtReset :=
  ⟨inv_fresh setupS1, inv_fresh⟩

/-- Settles O29: the character is absorbed, and `absorb` counts when ten or more bits are buffered. -/
theorem cntCountsDrainedUnits : Obligations.CntCountsDrainedUnits := by
  intro b v s hmode hv hroom
  refine ⟨_, exec_decPut b s, ?_⟩
  rw [decPut_char s.cfg s.par s.dec b v s.decSpace hv hmode, decChar_of_room hroom]
  refine ⟨rfl, ?_⟩
  show (absorb s.par s.dec v).cnt = _
  split_ifs with hbits
  · rw [absorb_full _ _ hbits]
    rfl
  · rw [absorb_short _ _ (by omega)]

end Sys2Proof.Machine
end

section
/-! Bring-up of the canonical styles and the direct set of S1 (spec/10_state.md R23, R25, R31). -/

namespace Sys2Proof.Machine

/-! ## Bring-up (R101, R243) -/

theorem byteOf_toNat (b : Byte) : byteOf b.toNat = b := by simp [byteOf]

/-- `TBL_NEW` of an alphabet given as bytes builds the table over those bytes (R101). -/
theorem tblNew_map_toNat {l : List Byte} (hlen : l.length = 64) (hnodup : l.Nodup)
    (hlt : ∀ a ∈ l, a.toNat < 128) :
    tblNew (l.map BitVec.toNat) = .ok { alpha := l, rev := revOf l } := by
  have hlen' : ¬ (l.map BitVec.toNat).length ≠ 64 := by simp [hlen]
  have hlow : ¬ ∃ x ∈ l.map BitVec.toNat, 128 ≤ x := by simpa using hlt
  have hnodup' : ¬ ¬ (l.map BitVec.toNat).Nodup :=
    not_not.2 (hnodup.map fun _ _ => BitVec.eq_of_toNat_eq)
  have hback : (l.map BitVec.toNat).map byteOf = l := by
    simp [Function.comp_def, byteOf_toNat]
  rw [tblNew, if_neg hlen', if_neg hlow, if_neg hnodup', hback]

theorem construct_of_setupOk {st : Style} {alphabet : List Nat} {t : Table} {p : Params}
    (ht : tblNew alphabet = .ok t) (h : setupOk (cfgOf st t) p = true) :
    construct st alphabet p = .next (State.fresh { cfg := cfgOf st t, par := p, ok := h }) := by
  simp only [construct, ht, h, dite_true]

theorem construct_of_not_setupOk {st : Style} {alphabet : List Nat} {t : Table} {p : Params}
    (ht : tblNew alphabet = .ok t) (h : setupOk (cfgOf st t) p = false) :
    construct st alphabet p = .refused .illFormedCfg := by
  simp [construct, ht, h]

/-- A configuration whose unshift byte is the character of some 6-bit value fails the check (W6, D14). -/
theorem setupOk_eq_false_of_unshift_char {c : Cfg} (p : Params) (hrev : CfgW2 c) {v : Nat} (hv : v < 64)
    (hchar : c.unshift = alphaAt c v) : setupOk c p = false := by
  refine decide_eq_false ?_
  rintro ⟨⟨-, -, -, -, -, habsent⟩, -⟩
  obtain ⟨-, hvalue, -⟩ := hrev
  rw [CfgW6, hchar, hvalue v hv] at habsent
  cases habsent

theorem tblNew_alphaS1 :
    tblNew (alphaS1.map BitVec.toNat) = .ok { alpha := alphaS1, rev := revOf alphaS1 } :=
  have ⟨hlen, hnodup, hlt⟩ := cfgW1_of_alphaS1 styleS1
  tblNew_map_toNat hlen hnodup hlt

theorem tblNew_alphaS3 :
    tblNew (alphaS3.map BitVec.toNat) = .ok { alpha := alphaS3, rev := revOf alphaS3 } :=
  have ⟨hlen, hnodup, hlt⟩ := cfgW1_of_alphaS3 styleS3
  tblNew_map_toNat hlen hnodup hlt

/-! ## The direct set of S1 (R25) -/

/-- The members of the 128-bit number, read off its bits. -/
theorem directS1_getLsbD_iff : ∀ n < 128,
    directS1.getLsbD n = true ↔
      (0x41 ≤ n ∧ n ≤ 0x5A) ∨ (0x61 ≤ n ∧ n ≤ 0x7A) ∨ (0x30 ≤ n ∧ n ≤ 0x39) ∨
        n ∈ [0x27, 0x28, 0x29, 0x2C, 0x2D, 0x2E, 0x2F, 0x3A, 0x3F, 0x20, 0x09, 0x0D, 0x0A] := by
  decide +kernel

theorem isDirect_iff {c : Cfg} {cu : CodeUnit} :
    isDirect c cu = true ↔ cu.toNat < 128 ∧ c.direct.getLsbD cu.toNat = true := by
  unfold isDirect
  split_ifs with h
  · simp [h]
  · simp [show cu.toNat < 128 by omega]

/-! ## The obligations -/

/-- Settles O46: each alphabet builds its table and each style passes the check; `A` as the unshift byte is
the character of value 0, which W6 excludes. -/
theorem canonicalStylesComeUp : Obligations.CanonicalStylesComeUp := by
  refine ⟨construct_of_setupOk tblNew_alphaS1 setupS1.ok, construct_of_setupOk tblNew_alphaS1 setupS2.ok,
    construct_of_setupOk tblNew_alphaS3 setupS3.ok, rfl, rfl, rfl,
    construct_of_not_setupOk tblNew_alphaS1 ?_⟩
  exact setupOk_eq_false_of_unshift_char _ (cfgW2_of_alphaS1 _) (v := 0) (by decide) rfl

/-- Settles O48: below 128 the members are those of the number's bits, and no member is above. -/
theorem directSetOfS1 : Obligations.DirectSetOfS1 := by
  refine ⟨fun cu => ?_, by decide +kernel, rfl⟩
  rw [isDirect_iff]
  constructor
  · rintro ⟨hlt, hbit⟩
    exact (directS1_getLsbD_iff _ hlt).1 hbit
  · intro hmem
    have hlt : cu.toNat < 128 := by
      simp only [List.mem_cons, List.not_mem_nil, or_false] at hmem
      omega
    exact ⟨hlt, (directS1_getLsbD_iff _ hlt).2 hmem⟩

end Sys2Proof.Machine
end

section
/-! The statements of spec/20_memory.md about both units: any interleaving of their commands gives each what
it gives alone (R62), and a command's output is all or nothing (R60). A command of a port is an end of its unit
that reads nothing of the other one, said once by `encCommandEnd` and `decCommandEnd`. -/

namespace Sys2Proof.Machine

/-! ## A command of a port as an end of its unit (R58) -/

/-- How the command of an `ENC` word ends (R78, R79): a function of `CFG`, `E`, the word and `space` alone. -/
def encCommandEnd (c : Cfg) (e : EncState) (w : EncWord) (n : Nat) : EncEnd :=
  if encOpField w = 0b00#2 then encPut c e (encCuField w) n
  else if encOpField w = 0b01#2 then encFlush c e n
  else if encOpField w = 0b10#2 then .ok encInit []
  else .fault .badcmd

/-- How the command of a `DEC` word ends (R78, R79): a function of `CFG`, the widths, `D`, the word and `space`
alone. -/
def decCommandEnd (c : Cfg) (p : Params) (d : DecState) (w : DecWord) (n : Nat) : DecEnd :=
  if decOpField w = 0b00#2 then decPut c p d (decByteField w) n
  else if decOpField w = 0b01#2 then decFlush d
  else if decOpField w = 0b10#2 then .ok decInit none
  else .fault .badcmd

theorem runCommand_encWord (w : EncWord) (n : Nat) (s : State) :
    runCommand ⟨.enc w, n⟩ s =
      .next (finishEnc (encCommandEnd s.cfg s.enc w n) (present ⟨.enc w, n⟩ s)) := by
  simp only [runCommand, decode, decodeEnc, encCommandEnd]
  split_ifs <;> rfl

theorem runCommand_decWord (w : DecWord) (n : Nat) (s : State) :
    runCommand ⟨.dec w, n⟩ s =
      .next (finishDec (decCommandEnd s.cfg s.par s.dec w n) (present ⟨.dec w, n⟩ s)) := by
  simp only [runCommand, decode, decodeDec, decCommandEnd]
  split_ifs <;> rfl

/-! ## What a command does to the two views (R61) -/

/-- The end of an ENC command and the driving of its port, seen from ENC, come from what ENC sees before. -/
theorem encView_finishEnc_congr (x : EncEnd) (w : EncWord) (n : Nat) {s s' : State}
    (h : encView s = encView s') :
    encView (finishEnc x (present ⟨.enc w, n⟩ s)) = encView (finishEnc x (present ⟨.enc w, n⟩ s')) := by
  simp only [encView, Prod.mk.injEq] at h
  obtain ⟨hsetup, henc, -, hout, -, hdraw⟩ := h
  cases x <;> simp [encView, hsetup, henc, hout, hdraw]

/-- The same from DEC. -/
theorem decView_finishDec_congr (x : DecEnd) (w : DecWord) (n : Nat) {s s' : State}
    (h : decView s = decView s') :
    decView (finishDec x (present ⟨.dec w, n⟩ s)) = decView (finishDec x (present ⟨.dec w, n⟩ s')) := by
  simp only [decView, Prod.mk.injEq] at h
  obtain ⟨hsetup, hdec, -, hout, -, hdraw⟩ := h
  cases x <;> simp [decView, State.par, hsetup, hdec, hout, hdraw]

/-- A command of ENC's port leaves all that DEC sees. -/
theorem decView_finishEnc (x : EncEnd) (w : EncWord) (n : Nat) (s : State) :
    decView (finishEnc x (present ⟨.enc w, n⟩ s)) = decView s := by
  cases x <;> rfl

/-- A command of DEC's port leaves all that ENC sees. -/
theorem encView_finishDec (x : DecEnd) (w : DecWord) (n : Nat) (s : State) :
    encView (finishDec x (present ⟨.dec w, n⟩ s)) = encView s := by
  cases x <;> rfl

/-- A view that belongs to one unit: the unit's own commands change it by what it shows alone, and neither the
other unit's commands nor the commands that wait change it (R61, R62). -/
structure IsUnitView {V : Type} (u : UnitId) (view : State → V) : Prop where
  own : ∀ {c : Command} {s s' t t' : State}, c.unit = u → view s = view s' →
    runCommand c s = .next t → runCommand c s' = .next t' → view t = view t'
  other : ∀ {c : Command} {s t : State}, c.unit ≠ u → runCommand c s = .next t → view t = view s
  cmds : ∀ (s : State) (cs : List Command), view { s with cmds := cs } = view s

/-- States that look alike do so whatever commands wait in them. -/
theorem IsUnitView.congr_cmds {V : Type} {u : UnitId} {view : State → V} (hview : IsUnitView u view)
    {s s' : State} (hs : view s = view s') (cs cs' : List Command) :
    view { s with cmds := cs } = view { s' with cmds := cs' } :=
  (hview.cmds s cs).trans (hs.trans (hview.cmds s' cs').symm)

theorem encView_isUnitView : IsUnitView .enc encView where
  own {c s s' t t'} hunit hview ht ht' := by
    obtain ⟨w | w, n⟩ := c
    · simp only [runCommand_encWord, Host.Outcome.next.injEq] at ht ht'
      have hend : encCommandEnd s.cfg s.enc w n = encCommandEnd s'.cfg s'.enc w n := by
        simp only [encView, Prod.mk.injEq] at hview
        obtain ⟨hsetup, henc, -⟩ := hview
        rw [State.cfg, State.cfg, hsetup, henc]
      rw [← ht, ← ht', hend]
      exact encView_finishEnc_congr _ w n hview
    · cases hunit
  other {c s t} hunit ht := by
    obtain ⟨w | w, n⟩ := c
    · exact absurd rfl hunit
    · cases (runCommand_decWord w n s).symm.trans ht
      exact encView_finishDec _ w n s
  cmds _ _ := rfl

theorem decView_isUnitView : IsUnitView .dec decView where
  own {c s s' t t'} hunit hview ht ht' := by
    obtain ⟨w | w, n⟩ := c
    · cases hunit
    · simp only [runCommand_decWord, Host.Outcome.next.injEq] at ht ht'
      have hend : decCommandEnd s.cfg s.par s.dec w n = decCommandEnd s'.cfg s'.par s'.dec w n := by
        simp only [decView, Prod.mk.injEq] at hview
        obtain ⟨hsetup, hdec, -⟩ := hview
        rw [State.cfg, State.cfg, State.par, State.par, hsetup, hdec]
      rw [← ht, ← ht', hend]
      exact decView_finishDec_congr _ w n hview
  other {c s t} hunit ht := by
    obtain ⟨w | w, n⟩ := c
    · cases (runCommand_encWord w n s).symm.trans ht
      exact decView_finishEnc _ w n s
    · exact absurd rfl hunit
  cmds _ _ := rfl

/-! ## Runs of commands -/

/-- A command is carried out without a look at the commands that wait. -/
theorem runCommand_keeps_cmds {c : Command} {s t : State} (h : runCommand c s = .next t) :
    t.cmds = s.cmds := by
  obtain ⟨w | w, n⟩ := c
  · cases (runCommand_encWord w n s).symm.trans h
    obtain ⟨⟨-, -, hcmds, -⟩, -⟩ :=
      finishEnc_frame (encCommandEnd s.cfg s.enc w n) (present ⟨.enc w, n⟩ s)
    exact hcmds
  · cases (runCommand_decWord w n s).symm.trans h
    obtain ⟨⟨-, -, hcmds, -⟩, -⟩ :=
      finishDec_frame (decCommandEnd s.cfg s.par s.dec w n) (present ⟨.dec w, n⟩ s)
    exact hcmds

theorem runCommands_nil (s : State) : runCommands [] s = .next { s with cmds := [] } := rfl

/-- A run carries out its first command and goes on from there (R18, R61). -/
theorem runCommands_cons {c : Command} {cs : List Command} {s t : State}
    (h : runCommand c { s with cmds := cs } = .next t) :
    runCommands (c :: cs) s = runCommands cs t := by
  have hstep : Sys2Proof.core.step { s with cmds := c :: cs } = .next t := h
  obtain rfl : t.cmds = cs := runCommand_keeps_cmds h
  simp only [runCommands, List.length_cons, Host.Core.run]
  rw [hstep]

/-- A run ends with every command taken and the configuration as it was (R65). -/
theorem runCommands_ends (cs : List Command) :
    ∀ s : State, ∃ t, runCommands cs s = .next t ∧ t.setup = s.setup ∧ t.cmds = [] := by
  induction cs with
  | nil => exact fun s => ⟨_, runCommands_nil s, rfl, rfl⟩
  | cons c cs ih =>
    intro s
    obtain ⟨s1, hs1, hsetup1⟩ := runCommand_keeps_setup c { s with cmds := cs }
    obtain ⟨t, ht, hsetup, hcmds⟩ := ih s1
    exact ⟨t, (runCommands_cons hs1).trans ht, hsetup.trans hsetup1, hcmds⟩

/-- The run of all commands and the run of one unit's commands alone, from states that look alike to the unit,
end in states that look alike to it. -/
theorem IsUnitView.runCommands_filter {V : Type} {u : UnitId} {view : State → V}
    (hview : IsUnitView u view) (cs : List Command) :
    ∀ {s s' t t' : State}, view s = view s' → runCommands cs s = .next t →
      runCommands (cs.filter fun c => c.unit == u) s' = .next t' → view t = view t' := by
  induction cs with
  | nil =>
    intro s s' t t' hs ht ht'
    cases ht
    cases ht'
    exact hview.congr_cmds hs _ _
  | cons c cs ih =>
    intro s s' t t' hs ht ht'
    obtain ⟨s1, hs1, -⟩ := runCommand_keeps_setup c { s with cmds := cs }
    rw [runCommands_cons hs1] at ht
    by_cases hunit : c.unit = u
    · rw [List.filter_cons_of_pos (by simp [hunit])] at ht'
      obtain ⟨s1', hs1', -⟩ :=
        runCommand_keeps_setup c { s' with cmds := cs.filter fun c => c.unit == u }
      rw [runCommands_cons hs1'] at ht'
      exact ih (hview.own hunit (hview.congr_cmds hs _ _) hs1 hs1') ht ht'
    · rw [List.filter_cons_of_neg (by simp [hunit])] at ht'
      exact ih ((hview.other hunit hs1).trans ((hview.cmds s _).trans hs)) ht ht'

/-- Settles O43: the run of each unit's commands alone looks to that unit like the whole run. -/
theorem interleavingDoesNotMatter : Obligations.InterleavingDoesNotMatter := by
  intro s cs
  obtain ⟨t, ht, hsetup, hcmds⟩ := runCommands_ends cs s
  obtain ⟨te, hte, -⟩ := runCommands_ends (cs.filter fun c => c.unit == .enc) s
  obtain ⟨td, htd, -⟩ := runCommands_ends (cs.filter fun c => c.unit == .dec) s
  exact ⟨t, te, td, ht, hte, htd, encView_isUnitView.runCommands_filter cs rfl ht hte,
    decView_isUnitView.runCommands_filter cs rfl ht htd, hsetup, hcmds⟩

/-! ## What an ENC command puts out (R131) -/

/-- `E` after a packed code unit (R128, R129). -/
def packedState (e : EncState) (cu : CodeUnit) : EncState :=
  { mode := .base64, pending := (pack e.pending e.acc cu).pending, acc := (pack e.pending e.acc cu).acc }

/-- The bytes that open a run: the shift byte from Direct mode, none inside a run (R128). -/
def opening (c : Cfg) : Mode → List Byte
  | .direct => [c.shift]
  | .base64 => []

/-- What a packed code unit puts out: the opening and the characters of the full sextets (R128). -/
def packedOut (c : Cfg) (e : EncState) (cu : CodeUnit) : List Byte :=
  opening c e.mode ++ (pack e.pending e.acc cu).chars.map (charOf c)

theorem encPacked_eq (c : Cfg) (e : EncState) (cu : CodeUnit) :
    encPacked c e cu = .ok (packedState e cu) (packedOut c e cu) := by
  unfold encPacked packedOut opening
  cases e.mode <;> rfl

theorem length_pack_chars (p : Nat) (a : Sextet) (cu : CodeUnit) :
    (pack p a cu).chars.length = (p + 16) / 6 := by
  simp [pack]

/-- A packed code unit puts out at most three bytes: the shift byte comes only with no bits pending, so with
two characters (R130, R131). -/
theorem length_packedOut_le {e : EncState} (hinv : EncInv e) (c : Cfg) (cu : CodeUnit) :
    (packedOut c e cu).length ≤ 3 := by
  obtain ⟨hpending, -, hdirect⟩ := hinv
  rw [packedOut, List.length_append, List.length_map, length_pack_chars]
  cases hmode : e.mode with
  | direct =>
    obtain ⟨hzero, -⟩ := hdirect hmode
    simp [opening, hzero]
  | base64 =>
    simp only [opening, List.length_nil]
    omega

theorem length_padChar_le (c : Cfg) (e : EncState) : (padChar c e).length ≤ 1 := by
  unfold padChar
  split_ifs <;> simp

/-- A flush puts out at most two bytes (R134, R135). -/
theorem length_padChar_append_le (c : Cfg) (e : EncState) (b : Byte) : (padChar c e ++ [b]).length ≤ 2 := by
  rw [List.length_append]
  exact Nat.add_le_add_right (length_padChar_le c e) 1

theorem encFlush_open (c : Cfg) {e : EncState} {n : Nat} (hn : 2 ≤ n) (hmode : e.mode = .base64) :
    encFlush c e n = .ok encInit (padChar c e ++ [c.unshift]) := by
  have hroom : ¬ n < encFlushWorst := not_lt.2 hn
  simp only [encFlush, hmode, hroom, if_false]
  rfl

/-! ## The room an output needs (R60, R73) -/

/-- An end of an ENC command that keeps to `space` (R124, R131, R135): the bytes put out fit the three lanes
and the free places, and a fault status is not `OK`. -/
def EncEnd.Fits (n : Nat) : EncEnd → Prop
  | .ok _ out => out.length ≤ 3 ∧ out.length ≤ n
  | .fault st => st ≠ .ok

/-- An end of a DEC command that keeps to `space` (R156, R159, R163): a code unit is put out into a free place
only, and a fault status is not `OK`. -/
def DecEnd.Fits (n : Nat) : DecEnd → Prop
  | .ok _ out => out.toList.length ≤ n
  | .fault st => st ≠ .ok

/-- With the room of `ENC_WORST` an `OK` end fits when its bytes fit the lanes. -/
theorem EncEnd.fits_ok {n : Nat} (hn : 4 ≤ n) (e : EncState) {out : List Byte} (h : out.length ≤ 3) :
    (EncEnd.ok e out).Fits n := ⟨h, by omega⟩

theorem encDirect_fits (c : Cfg) (e : EncState) (cu : CodeUnit) {n : Nat} (hn : 4 ≤ n) :
    (encDirect c e cu).Fits n := by
  have hpad := length_padChar_le c e
  unfold encDirect
  split
  · exact EncEnd.fits_ok hn _ (by simp)
  · refine EncEnd.fits_ok hn _ ?_
    split_ifs <;> simp only [List.length_append, List.length_cons, List.length_nil] <;> omega

theorem encPut_fits (u : Setup) {e : EncState} (hinv : EncInv e) (cu : CodeUnit) (n : Nat) :
    (encPut u.cfg e cu n).Fits n := by
  by_cases hn : n < 4
  · rw [encPut_overflow _ _ _ _ hn]
    exact nofun
  have hn : 4 ≤ n := by omega
  cases hd : isDirect u.cfg cu with
  | true =>
    rw [encPut_direct _ _ _ _ hn hd]
    exact encDirect_fits u.cfg e cu hn
  | false =>
    by_cases hs : cu = unitOfByte u.cfg.shift ∧ e.mode = .direct
    · obtain ⟨rfl, hmode⟩ := hs
      rw [encPut_shift _ _ _ hn hd hmode]
      exact EncEnd.fits_ok hn _ (by simp)
    · have hother : cu ≠ unitOfByte u.cfg.shift ∨ e.mode = .base64 :=
        (not_and_or.1 hs).imp_right eq_base64_of_ne_direct
      rw [encPut_other _ _ _ _ hn hd hother, encPacked_eq]
      exact EncEnd.fits_ok hn _ (length_packedOut_le hinv u.cfg cu)

theorem encFlush_fits (c : Cfg) (e : EncState) (n : Nat) : (encFlush c e n).Fits n := by
  have hlen := length_padChar_append_le c e c.unshift
  unfold encFlush
  split
  · exact ⟨Nat.zero_le 3, Nat.zero_le n⟩
  · split_ifs with hn
    · exact nofun
    · exact ⟨hlen.trans (Nat.le_succ 2), hlen.trans (not_lt.1 hn)⟩

theorem encCommandEnd_fits (u : Setup) {e : EncState} (hinv : EncInv e) (w : EncWord) (n : Nat) :
    (encCommandEnd u.cfg e w n).Fits n := by
  unfold encCommandEnd
  split_ifs
  · exact encPut_fits u hinv _ n
  · exact encFlush_fits u.cfg e n
  · exact ⟨Nat.zero_le 3, Nat.zero_le n⟩
  · exact nofun

theorem directByte_fits (c : Cfg) (p : Params) (d : DecState) (b : Byte) (n : Nat) :
    (directByte c p d b n).Fits n := by
  unfold directByte
  split_ifs with hshift hn
  · exact Nat.zero_le n
  · exact nofun
  · exact not_lt.1 hn

theorem decChar_fits (p : Params) (d : DecState) (v : Sextet) (n : Nat) : (decChar p d v n).Fits n := by
  by_cases hroom : 10 ≤ d.bits → 1 ≤ n
  · rw [decChar_of_room hroom]
    by_cases hbits : d.bits < 10
    · rw [unpack_short _ _ _ hbits]
      exact Nat.zero_le n
    · rw [unpack_full _ _ _ (not_lt.1 hbits)]
      exact hroom (not_lt.1 hbits)
  · rw [decChar, if_pos (by omega)]
    exact nofun

theorem decUnshift_fits (c : Cfg) (p : Params) (d : DecState) (n : Nat) : (decUnshift c p d n).Fits n := by
  unfold decUnshift
  split_ifs with hempty hn
  · exact nofun
  · exact not_lt.1 hn
  · exact Nat.zero_le n
  · exact nofun

theorem decForeign_fits (c : Cfg) (p : Params) (d : DecState) (b : Byte) (n : Nat) :
    (decForeign c p d b n).Fits n := by
  unfold decForeign
  split_ifs
  · exact nofun
  · exact nofun
  · exact directByte_fits c p _ b n
  · exact nofun

theorem decPut_fits (u : Setup) (p : Params) (d : DecState) (b : Byte) (n : Nat) :
    (decPut u.cfg p d b n).Fits n := by
  by_cases hb : 128 ≤ b.toNat
  · rw [decPut_high u.cfg p d b n hb]
    exact nofun
  have hb : b.toNat < 128 := not_le.1 hb
  cases hmode : d.mode with
  | direct =>
    rw [decPut_direct u.cfg p d b n hb hmode]
    exact directByte_fits u.cfg p d b n
  | base64 =>
    cases hv : valueOf u.cfg b with
    | some v =>
      rw [decPut_char u.cfg p d b v n hv hmode]
      exact decChar_fits p d v n
    | none =>
      by_cases hu : b = u.cfg.unshift
      · rw [hu, decPut_unshift u p d n hmode]
        exact decUnshift_fits u.cfg p d n
      · rw [decPut_foreign u.cfg p d b n hb hmode hv hu]
        exact decForeign_fits u.cfg p d b n

theorem decFlush_fits (d : DecState) (n : Nat) : (decFlush d).Fits n := by
  unfold decFlush
  split
  · exact nofun
  · exact Nat.zero_le n

theorem decCommandEnd_fits (u : Setup) (p : Params) (d : DecState) (w : DecWord) (n : Nat) :
    (decCommandEnd u.cfg p d w n).Fits n := by
  unfold decCommandEnd
  split_ifs
  · exact decPut_fits u p d _ n
  · exact decFlush_fits d n
  · exact Nat.zero_le n
  · exact nofun

/-- An ENC command delivers its output lanes whole when it ends `OK`, and nothing otherwise. -/
theorem finishEnc_allOrNothing {x : EncEnd} {n : Nat} (hfits : x.Fits n) (s : State) :
    ((finishEnc x s).encRes.status ≠ .ok → (finishEnc x s).encOut = s.encOut) ∧
      ((finishEnc x s).encRes.status = .ok →
        (finishEnc x s).encOut = s.encOut ++ (finishEnc x s).encRes.outputs ∧
          (finishEnc x s).encRes.outputs.length = (finishEnc x s).encRes.nout.toNat ∧
          (finishEnc x s).encRes.nout.toNat ≤ n) := by
  cases x with
  | ok e out =>
    obtain ⟨hlanes, hroom⟩ := hfits
    obtain ⟨hok, hnout, houtputs, hstream⟩ := finishEnc_delivers e out s hlanes
    rw [hnout, houtputs]
    exact ⟨fun h => absurd hok h, fun _ => ⟨hstream, rfl, hroom⟩⟩
  | fault st => exact ⟨fun _ => rfl, fun hok => absurd hok hfits⟩

/-- A DEC command delivers its output when it ends `OK`, and nothing otherwise. -/
theorem finishDec_allOrNothing {x : DecEnd} {n : Nat} (hfits : x.Fits n) (s : State) :
    ((finishDec x s).decRes.status ≠ .ok → (finishDec x s).decOut = s.decOut) ∧
      ((finishDec x s).decRes.status = .ok →
        (finishDec x s).decOut = s.decOut ++ (finishDec x s).decRes.outputs ∧
          (finishDec x s).decRes.outputs.length = (finishDec x s).decRes.nout.toNat ∧
          (finishDec x s).decRes.nout.toNat ≤ n) := by
  cases x with
  | ok d out =>
    obtain ⟨hok, hnout, houtputs, -, hstream⟩ := finishDec_delivers d out s
    have hcount : out.toList.length = (BitVec.ofBool out.isSome).toNat := by cases out <;> rfl
    rw [hnout, houtputs, ← hcount]
    exact ⟨fun h => absurd hok h, fun _ => ⟨hstream, rfl, hfits⟩⟩
  | fault st => exact ⟨fun _ => rfl, fun hok => absurd hok hfits⟩

/-- Settles O41: every command is an end of its unit that keeps to `space` and leaves the other unit's
stream. -/
theorem outputIsAllOrNothing : Obligations.OutputIsAllOrNothing := by
  intro c s hinv
  obtain ⟨w | w, n⟩ := c
  · obtain ⟨hfault, hok⟩ :=
      finishEnc_allOrNothing (encCommandEnd_fits s.setup hinv w n) (present ⟨.enc w, n⟩ s)
    obtain ⟨⟨⟨-, -, hdec, -⟩, -⟩, -⟩ :=
      finishEnc_frame (encCommandEnd s.cfg s.enc w n) (present ⟨.enc w, n⟩ s)
    exact ⟨_, runCommand_encWord w n s, fun h => ⟨hfault h, hdec⟩, fun _ => ⟨hdec, hok⟩, nofun⟩
  · obtain ⟨hfault, hok⟩ :=
      finishDec_allOrNothing (decCommandEnd_fits s.setup s.par s.dec w n) (present ⟨.dec w, n⟩ s)
    obtain ⟨⟨⟨-, -, henc, -⟩, -⟩, -⟩ :=
      finishDec_frame (decCommandEnd s.cfg s.par s.dec w n) (present ⟨.dec w, n⟩ s)
    exact ⟨_, runCommand_decWord w n s, fun h => ⟨henc, hfault h⟩, nofun, fun _ => ⟨henc, hok⟩⟩

end Sys2Proof.Machine
end

section
/-! The bit layout of a run (spec/30_encoding.md R83, R84): what the encoder has put out of a run, and after it
the bits that still wait in `E`, are the cut of the units' concatenated bits into sextets. -/

namespace Sys2Proof.Machine

/-! ## Bits cut into sextets (R55, R83) -/

/-- A sextet made of bits has those bits, the first in bit 5. -/
theorem sextetOfBits_eq_iff {b5 b4 b3 b2 b1 b0 : Bool} {v : Sextet} :
    sextetOfBits [b5, b4, b3, b2, b1, b0] = v ↔
      v.getLsbD 5 = b5 ∧ v.getLsbD 4 = b4 ∧ v.getLsbD 3 = b3 ∧ v.getLsbD 2 = b2 ∧ v.getLsbD 1 = b1 ∧
        v.getLsbD 0 = b0 := by
  constructor
  · rintro rfl
    revert b5 b4 b3 b2 b1 b0
    decide +kernel
  · rintro ⟨rfl, rfl, rfl, rfl, rfl, rfl⟩
    revert v
    decide +kernel

/-- Six bits are cut off as one sextet. -/
theorem sextetsOf_cons_six (b5 b4 b3 b2 b1 b0 : Bool) (rest : List Bool) :
    sextetsOf (b5 :: b4 :: b3 :: b2 :: b1 :: b0 :: rest) =
      sextetOfBits [b5, b4, b3, b2, b1, b0] :: sextetsOf rest := rfl

/-- The number of sextets is the number of bits over six, rounded up (R84). -/
theorem length_sextetsOf : ∀ l : List Bool, (sextetsOf l).length = (l.length + 5) / 6
  | [] | [_] | [_, _] | [_, _, _] | [_, _, _, _] | [_, _, _, _, _] => by simp [sextetsOf]
  | _ :: _ :: _ :: _ :: _ :: _ :: rest => by
    simp only [sextetsOf_cons_six, List.length_cons, length_sextetsOf rest]
    omega

theorem unitBits_eq (cu : CodeUnit) :
    unitBits cu =
      [cu.getLsbD 15, cu.getLsbD 14, cu.getLsbD 13, cu.getLsbD 12, cu.getLsbD 11, cu.getLsbD 10, cu.getLsbD 9,
        cu.getLsbD 8, cu.getLsbD 7, cu.getLsbD 6, cu.getLsbD 5, cu.getLsbD 4, cu.getLsbD 3, cu.getLsbD 2,
        cu.getLsbD 1, cu.getLsbD 0] := rfl

theorem runBits_nil : runBits [] = [] := rfl

theorem runBits_cons (u : CodeUnit) (us : List CodeUnit) : runBits (u :: us) = unitBits u ++ runBits us :=
  List.flatMap_cons

theorem length_runBits (us : List CodeUnit) : (runBits us).length = 16 * us.length := by
  induction us with
  | nil => rfl
  | cons u us ih =>
    rw [runBits_cons, unitBits_eq, List.length_append, ih]
    simp only [List.length_cons, List.length_nil]
    omega

/-! ## The bits that wait in `E` (R35, R36) -/

/-- The pending bits of `E`, in the order in which they entered the run. -/
def pendingBits (e : EncState) : List Bool := (List.range e.pending).map fun i => e.acc.getLsbD (5 - i)

theorem pendingBits_zero (m : Mode) (a : Sextet) : pendingBits ⟨m, 0, a⟩ = [] := rfl

theorem pendingBits_two (m : Mode) (a : Sextet) :
    pendingBits ⟨m, 2, a⟩ = [a.getLsbD 5, a.getLsbD 4] := rfl

theorem pendingBits_four (m : Mode) (a : Sextet) :
    pendingBits ⟨m, 4, a⟩ = [a.getLsbD 5, a.getLsbD 4, a.getLsbD 3, a.getLsbD 2] := rfl

/-- The bits of a sextet of four bits above two. -/
theorem four_append_two_getLsbD (x : BitVec 4) (y : BitVec 2) (i : Nat) :
    BitVec.getLsbD (w := 6) (x ++ y) i = if i < 2 then y.getLsbD i else x.getLsbD (i - 2) :=
  BitVec.getLsbD_append

/-- The bits of a sextet of two bits above four. -/
theorem two_append_four_getLsbD (x : BitVec 2) (y : BitVec 4) (i : Nat) :
    BitVec.getLsbD (w := 6) (x ++ y) i = if i < 4 then y.getLsbD i else x.getLsbD (i - 4) :=
  BitVec.getLsbD_append

/-- `pack` cuts its sextets off the pending bits followed by the code unit's, and the bits it leaves pending
come first in what follows: the three cases of R130. -/
theorem sextetsOf_pack {e : EncState} (hinv : EncInv e) (cu : CodeUnit) (rest : List Bool) :
    sextetsOf (pendingBits e ++ (unitBits cu ++ rest)) =
      (pack e.pending e.acc cu).chars ++ sextetsOf (pendingBits (packedState e cu) ++ rest) := by
  obtain ⟨mode, pending, acc⟩ := e
  obtain ⟨rfl | rfl | rfl, hacc, -⟩ := hinv
  · obtain rfl : acc = 0#6 := BitVec.eq_of_toNat_eq ((Nat.mod_eq_of_lt acc.isLt).symm.trans hacc)
    simp [packedState, pack_zero, pendingBits_zero, pendingBits_four, unitBits_eq, sextetsOf_cons_six,
      sextetOfBits_eq_iff, four_append_two_getLsbD, -BitVec.getLsbD_eq_getElem]
  · simp [packedState, pack_two, pendingBits_two, pendingBits_zero, unitBits_eq, sextetsOf_cons_six,
      sextetOfBits_eq_iff, two_append_four_getLsbD, -BitVec.getLsbD_eq_getElem]
  · simp [packedState, pack_four, pendingBits_four, pendingBits_two, unitBits_eq, sextetsOf_cons_six,
      sextetOfBits_eq_iff, four_append_two_getLsbD, two_append_four_getLsbD, -BitVec.getLsbD_eq_getElem]

/-- At the end of a run the pending bits are one sextet padded with zeros, or none: the padding character
(R125, R134). -/
theorem padChar_eq (c : Cfg) {e : EncState} (hinv : EncInv e) :
    padChar c e = (sextetsOf (pendingBits e)).map (charOf c) := by
  obtain ⟨mode, pending, acc⟩ := e
  obtain ⟨rfl | rfl | rfl, hacc, -⟩ := hinv
  · rfl
  · have hpad : ∀ a : Sextet, a.toNat % 2 ^ 4 = 0 → sextetOfBits [a.getLsbD 5, a.getLsbD 4] = a := by
      decide +kernel
    exact congrArg (fun v => [charOf c v]) (hpad acc hacc).symm
  · have hpad : ∀ a : Sextet, a.toNat % 2 ^ 2 = 0 →
        sextetOfBits [a.getLsbD 5, a.getLsbD 4, a.getLsbD 3, a.getLsbD 2] = a := by
      decide +kernel
    exact congrArg (fun v => [charOf c v]) (hpad acc hacc).symm

/-! ## A run of `ENC_STR` (R191) -/

/-- With room an `ENC_PUT` of class OTH, or of class SHF inside a run, packs its code unit (R123, R128). -/
theorem issue_encPut_packed {s : State} {u : CodeUnit} (hinv : EncInv s.enc)
    (hd : isDirect s.cfg u = false) (hs : u ≠ unitOfByte s.cfg.shift ∨ s.enc.mode = .base64) :
    ∃ t, issue (.encPut u) 4 s = .next t ∧ t.setup = s.setup ∧ t.enc = packedState s.enc u ∧
      t.encRes.status = .ok ∧ t.encRes.outputs = packedOut s.cfg s.enc u := by
  have hput := encPut_other s.cfg s.enc u 4 (Nat.le_refl 4) hd hs
  rw [encPacked_eq] at hput
  refine ⟨finishEnc (.ok (packedState s.enc u) (packedOut s.cfg s.enc u)) { s with encSpace := 4 },
    ?_, rfl, rfl, rfl, ?_⟩
  · rw [issue_encPut, exec_encPut, ← hput]
  · exact encResultOf_outputs .ok _ s.encDraw (length_packedOut_le hinv s.cfg u)

/-- The loop of `ENC_STR` at such a code unit goes on with its bytes appended (R191). -/
theorem encBufFrom_packed {s : State} {u : CodeUnit} (hinv : EncInv s.enc)
    (hd : isDirect s.cfg u = false) (hs : u ≠ unitOfByte s.cfg.shift ∨ s.enc.mode = .base64)
    (us : List CodeUnit) (i : Nat) (produced : List Byte) :
    ∃ t, t.setup = s.setup ∧ t.enc = packedState s.enc u ∧
      encBufFrom none (u :: us) i produced s =
        encBufFrom none us (i + 1) (produced ++ packedOut s.cfg s.enc u) t := by
  obtain ⟨t, hissue, hsetup, henc, hok, hout⟩ := issue_encPut_packed hinv hd hs
  exact ⟨t, hsetup, henc, by simp [encBufFrom, roomLeft, hissue, hok, hout]⟩

/-- The loop of `ENC_STR` over the units of a run, whether the first one opens the run or goes on with it: it
puts out the sextets cut off the bits pending before and the units' bits, and leaves the rest pending (R83). -/
theorem encBufFrom_run (us : List CodeUnit) :
    ∀ {u : CodeUnit} {s : State} (i : Nat) (produced : List Byte), EncInv s.enc →
      (u ≠ unitOfByte s.cfg.shift ∨ s.enc.mode = .base64) →
      (∀ x ∈ u :: us, isDirect s.cfg x = false) →
      ∃ c vs, encBufFrom none (u :: us) i produced s = .next c ∧
        c.produced = produced ++ (opening s.cfg s.enc.mode ++ vs.map (charOf s.cfg)) ∧
        c.state.setup = s.setup ∧ EncInv c.state.enc ∧ c.state.enc.mode = .base64 ∧
        sextetsOf (pendingBits s.enc ++ runBits (u :: us)) = vs ++ sextetsOf (pendingBits c.state.enc) := by
  induction us with
  | nil =>
    intro u s i produced hinv hclass hdirect
    have hu := hdirect u List.mem_cons_self
    obtain ⟨t, hsetup, henc, hloop⟩ := encBufFrom_packed hinv hu hclass [] i produced
    refine ⟨_, (pack s.enc.pending s.enc.acc u).chars, hloop, rfl, hsetup, henc ▸ encInv_pack hinv u,
      ?_, ?_⟩
    · exact congrArg EncState.mode henc
    · rw [runBits_cons, sextetsOf_pack hinv, henc, runBits_nil, List.append_nil]
  | cons v us ih =>
    intro u s i produced hinv hclass hdirect
    obtain ⟨hu, hus⟩ := List.forall_mem_cons.1 hdirect
    obtain ⟨t, hsetup, henc, hloop⟩ := encBufFrom_packed hinv hu hclass (v :: us) i produced
    have hcfg : t.cfg = s.cfg := congrArg Setup.cfg hsetup
    have hmode : t.enc.mode = .base64 := henc ▸ rfl
    obtain ⟨c, vs, hc, hout, hsetup', hinv', hmode', hbits⟩ :=
      ih (i + 1) _ (henc ▸ encInv_pack hinv u) (.inr hmode) (hcfg ▸ hus)
    refine ⟨c, (pack s.enc.pending s.enc.acc u).chars ++ vs, hloop.trans hc, ?_, hsetup'.trans hsetup, hinv',
      hmode', ?_⟩
    · rw [hout, hcfg, hmode]
      simp [packedOut, opening]
    · rw [runBits_cons, sextetsOf_pack hinv, ← henc, hbits, List.append_assoc]

/-- `ENC_END` of an open run puts out the padding character and the unshift byte (R134, R192). -/
theorem encEnd_open {s : State} (hmode : s.enc.mode = .base64) :
    ∃ e, encEnd 2 s = .next e ∧ e.result = .underflow ∧
      e.produced = padChar s.cfg s.enc ++ [s.cfg.unshift] := by
  have hlen := length_padChar_append_le s.cfg s.enc s.cfg.unshift
  have hissue : issue .encFlush 2 s =
      .next (finishEnc (.ok encInit (padChar s.cfg s.enc ++ [s.cfg.unshift])) { s with encSpace := 2 }) := by
    rw [issue_encFlush, exec_encFlush, ← encFlush_open s.cfg (Nat.le_refl 2) hmode]
  refine ⟨_, by rw [encEnd, hissue], rfl, ?_⟩
  exact encResultOf_outputs .ok _ s.encDraw (hlen.trans (Nat.le_succ 2))

theorem issue_encReset_next (s : State) :
    ∃ t, issue .encReset 4 s = .next t ∧ t.setup = s.setup ∧ t.enc = encInit := ⟨_, rfl, rfl, rfl⟩

/-- The parts of `enc(s)` put together (R197). -/
theorem encAll_of_parts {us : List CodeUnit} {s s1 : State} {c e : Call Byte}
    (hreset : issue .encReset 4 s = .next s1) (hstr : encStr us s1 = .next c)
    (hend : encEnd 2 c.state = .next e) :
    encAll us s = .next ⟨e.result, c.consumed, c.produced ++ e.produced, e.state⟩ := by
  simp only [encAll, hreset, hstr, hend]

/-- Settles O54: `ENC_STR` puts out the shift byte and the run but for the pending bits, and the flush puts
those out padded. -/
theorem runLayoutIsTheConcatenatedBits : Obligations.RunLayoutIsTheConcatenatedBits := by
  intro s u us hshift hdirect
  obtain ⟨s1, hreset, hsetup1, henc1⟩ := issue_encReset_next s
  have hcfg1 : s1.cfg = s.cfg := congrArg Setup.cfg hsetup1
  rw [← hcfg1] at hshift hdirect ⊢
  obtain ⟨c, vs, hstr, hout, hsetup, hinv, hmode, hbits⟩ :=
    encBufFrom_run us 0 [] (henc1 ▸ encInv_of_empty .direct) (.inl hshift) hdirect
  have hcfg : c.state.cfg = s1.cfg := congrArg Setup.cfg hsetup
  have hnone : pendingBits s1.enc = [] := henc1 ▸ pendingBits_zero ..
  rw [hnone, List.nil_append] at hbits
  obtain ⟨e, hend, hres, hout'⟩ := encEnd_open hmode
  refine ⟨_, encAll_of_parts hreset hstr hend, hres, ?_, ?_⟩
  · rw [hout, hout', padChar_eq _ hinv, hcfg, hbits, henc1]
    simp [opening, encInit]
  · rw [length_sextetsOf, length_runBits, List.length_cons]
    omega

end Sys2Proof.Machine
end

section
/-! The statements of spec/30_encoding.md: the two word formats as an opcode field over an operand field, the row
of the opcode map a word selects (R78), and what a step makes of a placed word and of a reserved one. -/

namespace Sys2Proof

/-! ## A word as its field `op` above its operand field (R71, R72), for both formats -/

section Fields

variable {n : Nat} (w : BitVec (2 + n))

theorem opField_toNat : (w.extractLsb' n 2).toNat = w.toNat / 2 ^ n := by
  have hlt : w.toNat / 2 ^ n < 2 ^ 2 := Nat.div_lt_of_lt_mul (by rw [← Nat.pow_add']; exact w.isLt)
  rw [BitVec.extractLsb'_toNat, Nat.shiftRight_eq_div_pow, Nat.mod_eq_of_lt hlt]

theorem opField_eq_zero_iff : w.extractLsb' n 2 = 0b00#2 ↔ w.toNat < 2 ^ n := by
  rw [← BitVec.toNat_inj, opField_toNat]
  exact Nat.div_eq_zero_iff_lt (Nat.two_pow_pos n)

/-- The reserved `op` is the largest, so its words are the last quarter (R79). -/
theorem opField_eq_three_iff : w.extractLsb' n 2 = 0b11#2 ↔ 3 * 2 ^ n ≤ w.toNat := by
  have hlt := (w.extractLsb' n 2).isLt
  rw [← Nat.le_div_iff_mul_le (Nat.two_pow_pos n), ← opField_toNat, ← BitVec.toNat_inj]
  show _ = 3 ↔ _
  omega

/-- The mask of a row keeps `op` and clears the operand field (R78). -/
theorem and_mask : w &&& (0b11#2 ++ 0#n) = w.extractLsb' n 2 ++ 0#n := by
  have hop : w.extractLsb' n 2 &&& 0b11#2 = w.extractLsb' n 2 := BitVec.and_allOnes
  conv_lhs => rw [← BitVec.extractLsb'_append_extractLsb' (x := w)]
  rw [BitVec.and_append, hop, BitVec.and_zero]

theorem and_mask_eq_iff (op : BitVec 2) :
    w &&& (0b11#2 ++ 0#n) = op ++ 0#n ↔ w.extractLsb' n 2 = op := by
  rw [and_mask, BitVec.append_left_inj]

/-- A word of a PUT stands as it is, and of any other word the operand field is cleared (R80). -/
theorem clearIgnored_eq :
    (if w.toNat < 2 ^ n then w else w &&& (0b11#2 ++ 0#n)) =
      w.extractLsb' n 2 ++ if w.extractLsb' n 2 = 0b00#2 then w.extractLsb' 0 n else 0#n := by
  simp only [opField_eq_zero_iff]
  split_ifs
  · exact BitVec.extractLsb'_append_extractLsb'.symm
  · exact and_mask w

end Fields

/-! ## The row a word selects (R78, R79) -/

/-- The opcode map of either port: the row with the given `op`. -/
def selectRow (op : BitVec 2) (put flush reset : Instr) (reserved : DecodeError) :
    Except DecodeError Instr :=
  if op = 0b00#2 then .ok put
  else if op = 0b01#2 then .ok flush
  else if op = 0b10#2 then .ok reset
  else .error reserved

theorem opField_cases : ∀ op : BitVec 2, op = 0b00#2 ∨ op = 0b01#2 ∨ op = 0b10#2 ∨ op = 0b11#2 := by
  decide

theorem decodeEnc_eq_selectRow (w : EncWord) :
    decodeEnc w =
      selectRow (encOpField w) (.encPut (encCuField w)) .encFlush .encReset .reservedEnc := rfl

theorem decodeDec_eq_selectRow (w : DecWord) :
    decodeDec w =
      selectRow (decOpField w) (.decPut (decByteField w)) .decFlush .decReset .reservedDec := rfl

section Rows

variable {op : BitVec 2} {put flush reset i : Instr} {reserved e : DecodeError}

theorem selectRow_eq_ok_iff :
    selectRow op put flush reset reserved = .ok i ↔
      op = 0b00#2 ∧ put = i ∨ op = 0b01#2 ∧ flush = i ∨ op = 0b10#2 ∧ reset = i := by
  obtain rfl | rfl | rfl | rfl := opField_cases op <;> simp [selectRow]

theorem selectRow_eq_error_iff :
    selectRow op put flush reset reserved = .error e ↔ op = 0b11#2 ∧ reserved = e := by
  obtain rfl | rfl | rfl | rfl := opField_cases op <;> simp [selectRow]

end Rows

theorem decode_enc_eq_ok_iff {w : EncWord} {i : Instr} :
    decode (.enc w) = .ok i ↔
      encOpField w = 0b00#2 ∧ .encPut (encCuField w) = i ∨ encOpField w = 0b01#2 ∧ .encFlush = i ∨
        encOpField w = 0b10#2 ∧ .encReset = i := by
  rw [decode, decodeEnc_eq_selectRow, selectRow_eq_ok_iff]

theorem decode_dec_eq_ok_iff {w : DecWord} {i : Instr} :
    decode (.dec w) = .ok i ↔
      decOpField w = 0b00#2 ∧ .decPut (decByteField w) = i ∨ decOpField w = 0b01#2 ∧ .decFlush = i ∨
        decOpField w = 0b10#2 ∧ .decReset = i := by
  rw [decode, decodeDec_eq_selectRow, selectRow_eq_ok_iff]

/-- A word of ENC's port is rejected exactly in the last quarter (R79, D17). -/
theorem decode_enc_eq_reserved_iff {w : EncWord} :
    decode (.enc w) = .error .reservedEnc ↔ 0x30000 ≤ w.toNat := by
  rw [decode, decodeEnc_eq_selectRow, selectRow_eq_error_iff, and_iff_left rfl]
  exact opField_eq_three_iff (n := 16) w

/-- A word of DEC's port is rejected exactly in the last quarter (R79, D17). -/
theorem decode_dec_eq_reserved_iff {w : DecWord} :
    decode (.dec w) = .error .reservedDec ↔ 0x300 ≤ w.toNat := by
  rw [decode, decodeDec_eq_selectRow, selectRow_eq_error_iff, and_iff_left rfl]
  exact opField_eq_three_iff (n := 8) w

/-! ## Decode and encode (R80, R86) -/

theorem decode_encode (i : Instr) : decode (encode i) = .ok i := by
  cases i with
  | encPut cu => exact decode_enc_eq_ok_iff.2 (.inl ⟨encOpField_append _ cu, by rw [encCuField_append]⟩)
  | decPut b => exact decode_dec_eq_ok_iff.2 (.inl ⟨decOpField_append _ b, by rw [decByteField_append]⟩)
  | encFlush | encReset | decFlush | decReset => rfl

theorem encode_of_decode_enc {w : EncWord} {i : Instr} (h : decode (.enc w) = .ok i) :
    encode i = .enc (if w.toNat < 2 ^ 16 then w else w &&& 0x30000#18) := by
  refine Eq.trans ?_ (congrArg CommandWord.enc (clearIgnored_eq (n := 16) w)).symm
  change encode i = .enc (encOpField w ++ if encOpField w = 0b00#2 then encCuField w else 0#16)
  obtain ⟨hop, rfl⟩ | ⟨hop, rfl⟩ | ⟨hop, rfl⟩ := decode_enc_eq_ok_iff.1 h <;> rw [hop] <;> rfl

theorem encode_of_decode_dec {w : DecWord} {i : Instr} (h : decode (.dec w) = .ok i) :
    encode i = .dec (if w.toNat < 2 ^ 8 then w else w &&& 0x300#10) := by
  refine Eq.trans ?_ (congrArg CommandWord.dec (clearIgnored_eq (n := 8) w)).symm
  change encode i = .dec (decOpField w ++ if decOpField w = 0b00#2 then decByteField w else 0#8)
  obtain ⟨hop, rfl⟩ | ⟨hop, rfl⟩ | ⟨hop, rfl⟩ := decode_dec_eq_ok_iff.1 h <;> rw [hop] <;> rfl

/-- Settles O1, from the row each word selects and the two fields it is made of. -/
theorem decodeAndEncodeAgree : Obligations.DecodeAndEncodeAgree :=
  ⟨fun i _ => decode_encode i, fun _ _ => encode_of_decode_enc, fun _ _ => encode_of_decode_dec,
    fun _ => decode_enc_eq_reserved_iff, fun _ => decode_dec_eq_reserved_iff⟩

/-! ## The opcode map (R78) -/

/-- Settles O2: a row's `mask` keeps the field `op`, its `match` is the row's `op` over zeros. -/
theorem opcodeMapSelectsRows : Obligations.OpcodeMapSelectsRows := by
  refine ⟨fun w => ?_, fun w => ?_⟩
  · have hmask (op : BitVec 2) : w &&& 0x30000#18 = op ++ 0#16 ↔ encOpField w = op :=
      and_mask_eq_iff (n := 16) w op
    refine ⟨(hmask 0b00#2).trans (by simp [decode_enc_eq_ok_iff]),
      (hmask 0b01#2).trans (by simp [decode_enc_eq_ok_iff]),
      (hmask 0b10#2).trans (by simp [decode_enc_eq_ok_iff]), fun cu h => ?_⟩
    simp only [decode_enc_eq_ok_iff, Instr.encPut.injEq, reduceCtorEq, and_false, or_false] at h
    obtain ⟨-, rfl⟩ := h
    exact encCuField_toNat w
  · have hmask (op : BitVec 2) : w &&& 0x300#10 = op ++ 0#8 ↔ decOpField w = op :=
      and_mask_eq_iff (n := 8) w op
    refine ⟨(hmask 0b00#2).trans (by simp [decode_dec_eq_ok_iff]),
      (hmask 0b01#2).trans (by simp [decode_dec_eq_ok_iff]),
      (hmask 0b10#2).trans (by simp [decode_dec_eq_ok_iff]), fun b h => ?_⟩
    simp only [decode_dec_eq_ok_iff, Instr.decPut.injEq, reduceCtorEq, and_false, or_false] at h
    obtain ⟨-, rfl⟩ := h
    exact decByteField_toNat w

/-- Settles O3: nine closed words, each evaluated. -/
theorem sampleWordsDecode : Obligations.SampleWordsDecode := by
  unfold Obligations.SampleWordsDecode
  decide

theorem decodeTableWord_eq_some_iff {nbits w : Nat} {i : Instr} :
    decodeTableWord nbits w = some i ↔ ∃ cw, tableWord nbits w = some cw ∧ decode cw = .ok i := by
  unfold decodeTableWord
  cases tableWord nbits w with
  | none => simp
  | some cw => cases hdecode : decode cw <;> simp [hdecode]

namespace Machine

/-! ## A placed word and a reserved word in a step -/

theorem withFetchWord_of_tableWord {nbits w : Nat} {cw : CommandWord} (h : tableWord nbits w = some cw)
    (s : State) :
    s.withFetchWord nbits w = { s with cmds := { word := cw, space := defaultSpace cw } :: s.cmds } := by
  simp only [State.withFetchWord, placeWord, h]

/-- Settles O5: the step takes the placed word from the list again, and that leaves `s`. -/
theorem placedWordRunsNext : Obligations.PlacedWordRunsNext := by
  intro s nbits w i h
  obtain ⟨cw, hword, hdecode⟩ := decodeTableWord_eq_some_iff.1 h
  refine ⟨cw, hword, hdecode, ?_⟩
  rw [withFetchWord_of_tableWord hword, step_cons _ _ _ rfl]
  exact runCommand_of_decode_ok hdecode s

/-- A waiting word that is rejected with `e` makes the step a `BADCMD` at the unit of `e` (R79, R213). -/
theorem step_of_decode_error {s : State} {c : Command} {rest : List Command} {e : DecodeError}
    (hcmds : s.cmds = c :: rest) (h : decode c.word = .error e) :
    step s = .next (takeFault e.unit .badcmd (present c { s with cmds := rest })) :=
  (step_cons s c rest hcmds).trans (runCommand_of_decode_error h _)

/-- Settles O6: the word is rejected, and `BADCMD` is a fault outcome that records nothing. -/
theorem reservedWordEndsBadcmd : Obligations.ReservedWordEndsBadcmd := by
  refine ⟨fun s w n rest hcmds hw => ?_, fun s w n rest hcmds hw => ?_⟩
  · obtain ⟨⟨hdec, hsetup, hrest, hspace⟩, -⟩ :=
      finishEnc_frame (.fault .badcmd) (present ⟨.enc w, n⟩ { s with cmds := rest })
    exact ⟨_, step_of_decode_error hcmds (decode_enc_eq_reserved_iff.2 hw), takeFault_encFaulted _ _,
      hdec, hsetup, hspace, hrest⟩
  · obtain ⟨⟨henc, hsetup, hrest, hspace⟩, -⟩ :=
      finishDec_frame (.fault .badcmd) (present ⟨.dec w, n⟩ { s with cmds := rest })
    exact ⟨_, step_of_decode_error hcmds (decode_dec_eq_reserved_iff.2 hw),
      takeFault_decFaulted _ _ (by decide), henc, hsetup, hspace, hrest⟩

end Machine

end Sys2Proof
end

section
/-! The statements of spec/40_tables.md: the reverse table that `TBL_NEW` fills is the inverse of the alphabet
(R101, R102), and what the four lookups read (R104 to R107). -/

namespace Sys2Proof.Machine

/-! ## The loop that fills the reverse table (R101) -/

@[simp] theorem fillRev_length (as : List Byte) (v : Nat) (rev : List (Option Sextet)) :
    (fillRev as v rev).length = rev.length := by
  induction as generalizing v rev with
  | nil => rfl
  | cons a as ih => simp [fillRev, ih]

/-- The loop leaves the entry of a byte that is no character of the alphabet. -/
theorem fillRev_getElem?_of_not_mem {as : List Byte} {b : Nat} (h : ∀ a ∈ as, a.toNat ≠ b) (v : Nat)
    (rev : List (Option Sextet)) : (fillRev as v rev)[b]? = rev[b]? := by
  induction as generalizing v rev with
  | nil => rfl
  | cons a as ih =>
    obtain ⟨hhead, htail⟩ := List.forall_mem_cons.1 h
    rw [fillRev, ih htail, List.getElem?_set_ne hhead]

/-- The loop, begun at index `v`, gives the `i`-th of distinct characters the value `v + i`: no later round
writes the same entry again. -/
theorem fillRev_getElem?_getElem {as : List Byte} (hnodup : as.Nodup) (v : Nat) {rev : List (Option Sextet)}
    (hin : ∀ a ∈ as, a.toNat < rev.length) {i : Nat} (hi : i < as.length) :
    (fillRev as v rev)[as[i].toNat]? = some (some (BitVec.ofNat 6 (v + i))) := by
  induction as generalizing v rev i with
  | nil => cases hi
  | cons a as ih =>
    obtain ⟨hfresh, hnodup'⟩ := List.nodup_cons.1 hnodup
    obtain ⟨hhead, htail⟩ := List.forall_mem_cons.1 hin
    cases i with
    | zero =>
      have hkept : ∀ x ∈ as, x.toNat ≠ a.toNat := fun x hx heq =>
        hfresh (BitVec.eq_of_toNat_eq heq ▸ hx)
      rw [List.getElem_cons_zero, fillRev, fillRev_getElem?_of_not_mem hkept,
        List.getElem?_set_self hhead, Nat.add_zero]
    | succ i =>
      rw [List.getElem_cons_succ, fillRev, ih hnodup' (v + 1) (by simpa using htail), Nat.add_right_comm,
        Nat.add_assoc]

/-! ## `TBL_NEW` (R101, R102) -/

/-- A natural number below 128 is kept when it becomes a byte. -/
theorem toNat_byteOf {x : Nat} (h : x < 128) : (byteOf x).toNat = x :=
  Nat.mod_eq_of_lt (by omega)

theorem map_toNat_map_byteOf {alphabet : List Nat} (hlt : ∀ x ∈ alphabet, x < 128) :
    (alphabet.map byteOf).map BitVec.toNat = alphabet := by
  rw [List.map_map]
  exact (List.map_congr_left fun x hx => toNat_byteOf (hlt x hx)).trans (List.map_id' alphabet)

/-- `TBL_NEW` answers a table exactly when the three tests pass, and then it is the one over the alphabet's
bytes. -/
theorem tblNew_eq_ok_iff {alphabet : List Nat} {t : Table} :
    tblNew alphabet = .ok t ↔
      alphabet.length = 64 ∧ (∀ x ∈ alphabet, x < 128) ∧ alphabet.Nodup ∧
        t = { alpha := alphabet.map byteOf, rev := revOf (alphabet.map byteOf) } := by
  unfold tblNew
  split_ifs with hlen hhigh hnodup
  · simp [hlen]
  · obtain ⟨x, hx, hge⟩ := hhigh
    simp only [false_iff, not_and]
    exact fun _ hlt => absurd (hlt x hx) (by omega)
  · push Not at hlen hhigh
    exact ⟨fun h => ⟨hlen, hhigh, hnodup, (Except.ok.inj h).symm⟩, fun ⟨_, _, _, ht⟩ => congrArg _ ht.symm⟩
  · simp [hnodup]

/-- A table over 64 distinct 7-bit characters satisfies W1. -/
theorem cfgW1_of_alphabet {alphabet : List Nat} (hlen : alphabet.length = 64)
    (hlt : ∀ x ∈ alphabet, x < 128) (hnodup : alphabet.Nodup) (st : Style) (rev : List (Option Sextet)) :
    CfgW1 (cfgOf st { alpha := alphabet.map byteOf, rev := rev }) := by
  refine ⟨by simpa [cfgOf] using hlen, ?_, ?_⟩
  · refine List.Nodup.of_map BitVec.toNat ?_
    rwa [cfgOf, map_toNat_map_byteOf hlt]
  · refine List.forall_mem_map.2 fun x hx => ?_
    rw [toNat_byteOf (hlt x hx)]
    exact hlt x hx

/-- W1 of the alphabet gives W2 of the table filled from it. -/
theorem cfgW2_revOf {st : Style} {alpha : List Byte}
    (h : CfgW1 (cfgOf st { alpha := alpha, rev := revOf alpha })) :
    CfgW2 (cfgOf st { alpha := alpha, rev := revOf alpha }) := by
  obtain ⟨hlen, hnodup, hlt⟩ : alpha.length = 64 ∧ alpha.Nodup ∧ ∀ a ∈ alpha, a.toNat < 128 := h
  refine ⟨by simp [cfgOf, revOf], fun v hv => ?_, fun b hb habsent => ?_⟩
  · have hv' : v < alpha.length := by omega
    have hread := fillRev_getElem?_getElem hnodup 0 (rev := List.replicate 128 none) (by simpa using hlt) hv'
    simp only [revAt, alphaAt, cfgOf, revOf, List.getD_eq_getElem?_getD, List.getElem?_eq_getElem hv',
      Option.getD_some, hread, Nat.zero_add]
  · have hne : ∀ a ∈ alpha, a.toNat ≠ b := fun a ha heq =>
      habsent (heq ▸ (byteOf_toNat a).symm ▸ ha)
    simp only [revAt, cfgOf, revOf, List.getD_eq_getElem?_getD, fillRev_getElem?_of_not_mem hne,
      List.getElem?_replicate_of_lt hb, Option.getD_some]

/-! ## What the lookups read (R104 to R107) -/

theorem valueOf_of_ge {c : Cfg} {b : Byte} (h : 128 ≤ b.toNat) : valueOf c b = none := if_pos h

theorem valueOf_of_lt {c : Cfg} {b : Byte} (h : b.toNat < 128) : valueOf c b = revAt c b.toNat :=
  if_neg (Nat.not_le.2 h)

theorem isDirect_of_ge {c : Cfg} {cu : CodeUnit} (h : 128 ≤ cu.toNat) : isDirect c cu = false := if_pos h

theorem isDirect_of_lt {c : Cfg} {cu : CodeUnit} (h : cu.toNat < 128) :
    isDirect c cu = c.direct.getLsbD cu.toNat := if_neg (Nat.not_le.2 h)

theorem contains_iff {c : Cfg} {b : Byte} : contains c b = true ↔ valueOf c b ≠ none :=
  Option.isSome_iff_ne_none

/-- Inside the reverse table the default of the read plays no part (W2). -/
theorem some_revAt {c : Cfg} (hrev : CfgW2 c) {b : Nat} (hb : b < 128) : some (revAt c b) = c.rev[b]? := by
  have hb' : b < c.rev.length := hrev.1 ▸ hb
  simp [revAt, hb']

/-- Inside the alphabet the default of the read plays no part (W1). -/
theorem some_alphaAt {c : Cfg} (halpha : CfgW1 c) {v : Nat} (hv : v < 64) :
    some (alphaAt c v) = c.alpha[v]? := by
  have hv' : v < c.alpha.length := halpha.1 ▸ hv
  simp [alphaAt, hv']

/-! ## The obligations -/

/-- Settles O45: the three tests of `TBL_NEW` are W1 of the table, and the loop makes W2 of W1. -/
theorem builtTableIsInvertible : Obligations.BuiltTableIsInvertible := by
  refine ⟨fun alphabet hlen hnodup hlt => ?_, fun alphabet t st hok => ?_, fun alphabet hhigh => ?_⟩
  · exact ⟨_, tblNew_eq_ok_iff.2 ⟨hlen, hlt, hnodup, rfl⟩, map_toNat_map_byteOf hlt⟩
  · obtain ⟨hlen, hlt, hnodup, rfl⟩ := tblNew_eq_ok_iff.1 hok
    have halpha := cfgW1_of_alphabet hlen hlt hnodup st (revOf (alphabet.map byteOf))
    exact ⟨halpha, cfgW2_revOf halpha⟩
  · rw [tblNew, if_pos hhigh, ite_self]

/-- Settles O47: by W1 and W2 every index the lookups use is inside its table. -/
theorem lookupsReadTheTables : Obligations.LookupsReadTheTables := by
  intro u
  obtain ⟨⟨halpha, hrev, -⟩, -⟩ := setup_wf u
  refine ⟨fun b => ⟨valueOf_of_ge, fun hb => ?_, contains_iff⟩, fun v => ?_,
    fun cu => ⟨isDirect_of_ge, isDirect_of_lt⟩, isDirect_shift u, ?_⟩
  · rw [valueOf_of_lt hb]
    exact some_revAt hrev hb
  · exact ⟨some_alphaAt halpha v.isLt, charOf_lt u v, valueOf_charOf u v⟩
  · rintro (rfl | rfl | rfl) <;> decide

end Sys2Proof.Machine
end

section
/-! The statements of spec/41_encoder.md: how each ENC command ends, said once by an equation per case and, for
`ENC_PUT`, by `EncPutEnd`; then what it puts out and leaves in `E`. -/

namespace Sys2Proof.Machine

/-! ## The unshift rule and the padding character (R125, R126) -/

theorem needUnshift_iff {c : Cfg} {cu : CodeUnit} :
    needUnshift c cu = true ↔
      c.strict = true ∨ contains c (lowByte cu) = true ∨ cu = unitOfByte c.unshift := by
  simp [needUnshift, or_assoc]

/-- What the unshift rule says of the direct code units, all below 128, read off a table of the numbers below
128. -/
theorem needUnshift_eq_false_iff_of_table {c : Cfg} {l : List Nat}
    (htable : ∀ n < 128, isDirect c (BitVec.ofNat 16 n) = true →
      (needUnshift c (BitVec.ofNat 16 n) = false ↔ n ∈ l))
    {cu : CodeUnit} (hd : isDirect c cu = true) : needUnshift c cu = false ↔ cu.toNat ∈ l := by
  have h := htable cu.toNat (lt_of_isDirect hd)
  rw [BitVec.ofNat_toNat, BitVec.setWidth_eq] at h
  exact h hd

theorem padChar_eq_ite (c : Cfg) (e : EncState) :
    padChar c e = if e.pending = 0 then [] else [charOf c e.acc] := ite_not ..

theorem length_padChar (c : Cfg) (e : EncState) :
    (padChar c e).length = if e.pending = 0 then 0 else 1 := by
  rw [padChar_eq_ite]
  split_ifs <;> rfl

/-! ## How the two commands end (R123, R134) -/

/-- What a direct code unit that closes a run puts out: padding character, unshift byte, its own byte (R125). -/
def closingOut (c : Cfg) (e : EncState) (cu : CodeUnit) : List Byte :=
  padChar c e ++ (if needUnshift c cu then [c.unshift] else []) ++ [lowByte cu]

theorem encDirect_of_direct (c : Cfg) {e : EncState} (cu : CodeUnit) (hmode : e.mode = .direct) :
    encDirect c e cu = .ok e [lowByte cu] := by
  simp only [encDirect, hmode]

theorem encDirect_of_base64 (c : Cfg) {e : EncState} (cu : CodeUnit) (hmode : e.mode = .base64) :
    encDirect c e cu = .ok encInit (closingOut c e cu) := by
  simp only [encDirect, hmode]
  rfl

/-- The ways in which an `ENC_PUT` ends: `OVERFLOW`, or one of the classes of R120 in one of the modes. -/
inductive EncPutEnd (c : Cfg) (e : EncState) (cu : CodeUnit) (n : Nat) : EncEnd → Prop
  /-- Too little room, whatever the code unit (R124). -/
  | overflow (hn : n < 4) : EncPutEnd c e cu n (.fault .overflow)
  /-- Class DIR in Direct mode (R125). -/
  | direct (hn : 4 ≤ n) (hd : isDirect c cu = true) (hmode : e.mode = .direct) :
    EncPutEnd c e cu n (.ok e [lowByte cu])
  /-- Class DIR in Base64 mode (R125). -/
  | closed (hn : 4 ≤ n) (hd : isDirect c cu = true) (hmode : e.mode = .base64) :
    EncPutEnd c e cu n (.ok encInit (closingOut c e cu))
  /-- Class SHF in Direct mode (R127). -/
  | shift (hn : 4 ≤ n) (hd : isDirect c cu = false) (hshift : cu = unitOfByte c.shift)
    (hmode : e.mode = .direct) : EncPutEnd c e cu n (.ok e [c.shift, c.unshift])
  /-- Class OTH, or SHF in Base64 mode (R128). -/
  | packed (hn : 4 ≤ n) (hd : isDirect c cu = false)
    (hclass : cu ≠ unitOfByte c.shift ∨ e.mode = .base64) :
    EncPutEnd c e cu n (.ok (packedState e cu) (packedOut c e cu))

/-- Every `ENC_PUT` ends in one of the ways of `EncPutEnd`. -/
theorem encPut_cases (c : Cfg) (e : EncState) (cu : CodeUnit) (n : Nat) :
    EncPutEnd c e cu n (encPut c e cu n) := by
  by_cases hn : n < 4
  · rw [encPut_overflow c e cu n hn]
    exact .overflow hn
  have hn : 4 ≤ n := not_lt.1 hn
  cases hd : isDirect c cu with
  | true =>
    rw [encPut_direct c e cu n hn hd]
    cases hmode : e.mode with
    | direct =>
      rw [encDirect_of_direct c cu hmode]
      exact .direct hn hd hmode
    | base64 =>
      rw [encDirect_of_base64 c cu hmode]
      exact .closed hn hd hmode
  | false =>
    by_cases hs : cu = unitOfByte c.shift ∧ e.mode = .direct
    · obtain ⟨rfl, hmode⟩ := hs
      rw [encPut_shift c e n hn hd hmode]
      exact .shift hn hd rfl hmode
    · have hclass : cu ≠ unitOfByte c.shift ∨ e.mode = .base64 :=
        (not_and_or.1 hs).imp_right eq_base64_of_ne_direct
      rw [encPut_other c e cu n hn hd hclass, encPacked_eq]
      exact .packed hn hd hclass

/-- With room an `ENC_PUT` ends `OK` (R124). -/
theorem encPut_of_room (c : Cfg) (e : EncState) (cu : CodeUnit) {n : Nat} (hn : 4 ≤ n) :
    ∃ e' out, encPut c e cu n = .ok e' out := by
  have hend := encPut_cases c e cu n
  generalize encPut c e cu n = x at hend
  cases hend with
  | overflow hlt => omega
  | direct | closed | shift | packed => exact ⟨_, _, rfl⟩

theorem encFlush_direct (c : Cfg) {e : EncState} (n : Nat) (hmode : e.mode = .direct) :
    encFlush c e n = .ok e [] := by
  simp only [encFlush, hmode]

theorem encFlush_overflow (c : Cfg) {e : EncState} {n : Nat} (hn : n < 2) (hmode : e.mode = .base64) :
    encFlush c e n = .fault .overflow := by
  have hroom : n < encFlushWorst := hn
  simp only [encFlush, hmode, hroom, if_true]

/-! ## The number of bytes put out (R131) -/

theorem length_closingOut (c : Cfg) (e : EncState) (cu : CodeUnit) :
    (closingOut c e cu).length =
      1 + (if e.pending = 0 then 0 else 1) + (if needUnshift c cu = true then 1 else 0) := by
  have hunshift : (if needUnshift c cu = true then [c.unshift] else []).length =
      if needUnshift c cu = true then 1 else 0 := by split_ifs <;> rfl
  rw [closingOut, List.length_append, List.length_append, length_padChar, hunshift, List.length_singleton]
  omega

theorem length_closingOut_le (c : Cfg) (e : EncState) (cu : CodeUnit) :
    (closingOut c e cu).length ≤ 3 := by
  rw [length_closingOut]
  split_ifs <;> decide

/-- Entering a run, a packed code unit puts out the shift byte and two characters. -/
theorem length_packedOut_direct {e : EncState} (hinv : EncInv e) (c : Cfg) (cu : CodeUnit)
    (hmode : e.mode = .direct) : (packedOut c e cu).length = 3 := by
  obtain ⟨-, -, hdirect⟩ := hinv
  obtain ⟨hpending, -⟩ := hdirect hmode
  simp [packedOut, opening, length_pack_chars, hmode, hpending]

/-- Inside a run, a packed code unit puts out two characters, or three when bits were pending. -/
theorem length_packedOut_base64 {e : EncState} (hinv : EncInv e) (c : Cfg) (cu : CodeUnit)
    (hmode : e.mode = .base64) : (packedOut c e cu).length = if e.pending = 0 then 2 else 3 := by
  obtain ⟨hpending, -, -⟩ := hinv
  simp only [packedOut, opening, hmode, List.nil_append, List.length_map, length_pack_chars]
  split_ifs <;> omega

/-! ## What a code unit packs to (R130) -/

/-- The accumulator is zero when no bits are pending. -/
theorem EncInv.acc_eq_zero {e : EncState} (hinv : EncInv e) (hpending : e.pending = 0) : e.acc = 0#6 := by
  obtain ⟨-, hacc, -⟩ := hinv
  rw [hpending, Nat.mod_eq_of_lt e.acc.isLt] at hacc
  exact BitVec.eq_of_toNat_eq hacc

section Packed

variable {e : EncState} (c : Cfg) (cu : CodeUnit)

theorem packedState_zero (hinv : EncInv e) (hpending : e.pending = 0) :
    packedState e cu = { mode := .base64, pending := 4, acc := cu.extractLsb' 0 4 ++ 0#2 } := by
  rw [packedState, hpending, hinv.acc_eq_zero hpending, pack_zero]

theorem packedOut_zero (hinv : EncInv e) (hpending : e.pending = 0) :
    packedOut c e cu =
      opening c e.mode ++ [charOf c (cu.extractLsb' 10 6), charOf c (cu.extractLsb' 4 6)] := by
  rw [packedOut, hpending, hinv.acc_eq_zero hpending, pack_zero]
  rfl

theorem packedState_four (hpending : e.pending = 4) :
    packedState e cu = { mode := .base64, pending := 2, acc := cu.extractLsb' 0 2 ++ 0#4 } := by
  rw [packedState, hpending, pack_four]

theorem packedOut_four (hpending : e.pending = 4) :
    packedOut c e cu =
      opening c e.mode ++
        [charOf c (e.acc.extractLsb' 2 4 ++ cu.extractLsb' 14 2), charOf c (cu.extractLsb' 8 6),
          charOf c (cu.extractLsb' 2 6)] := by
  rw [packedOut, hpending, pack_four]
  rfl

theorem packedState_two (hpending : e.pending = 2) :
    packedState e cu = { mode := .base64, pending := 0, acc := 0#6 } := by
  rw [packedState, hpending, pack_two]

theorem packedOut_two (hpending : e.pending = 2) :
    packedOut c e cu =
      opening c e.mode ++
        [charOf c (e.acc.extractLsb' 4 2 ++ cu.extractLsb' 12 4), charOf c (cu.extractLsb' 6 6),
          charOf c (cu.extractLsb' 0 6)] := by
  rw [packedOut, hpending, pack_two]
  rfl

end Packed

/-! ## What a command leaves, from how it ends -/

/-- An ENC command that ends `OK` with at most three bytes delivers them and writes `E`, and nothing else. -/
theorem exec_delivers {i : Instr} {s : State} {e : EncState} {out : List Byte}
    (h : exec i s = .next (finishEnc (.ok e out) s)) (hlen : out.length ≤ 3) :
    ∃ t, exec i s = .next t ∧ EncFrame s t ∧ EncDelivers s t out ∧ t.enc = e := by
  obtain ⟨hframe, -⟩ := finishEnc_frame (.ok e out) s
  exact ⟨_, h, hframe, finishEnc_delivers e out s hlen, rfl⟩

/-- An ENC command that ends with a fault status leaves `E` and puts nothing out. -/
theorem exec_faults {i : Instr} {s : State} {st : Status}
    (h : exec i s = .next (finishEnc (.fault st) s)) :
    ∃ t, exec i s = .next t ∧ EncFrame s t ∧ EncFaulted s t st := by
  obtain ⟨hframe, -⟩ := finishEnc_frame (.fault st) s
  exact ⟨_, h, hframe, takeFault_encFaulted st s⟩

theorem exec_encPut_of_end {cu : CodeUnit} {s : State} {x : EncEnd}
    (h : encPut s.cfg s.enc cu s.encSpace = x) : exec (.encPut cu) s = .next (finishEnc x s) :=
  h ▸ exec_encPut cu s

theorem exec_encFlush_of_end {s : State} {x : EncEnd} (h : encFlush s.cfg s.enc s.encSpace = x) :
    exec .encFlush s = .next (finishEnc x s) :=
  h ▸ exec_encFlush s

/-- A code unit of class OTH, or of class SHF inside a run, is packed (R128). -/
theorem exec_encPut_packed {cu : CodeUnit} {s : State} (hinv : EncInv s.enc) (hn : 4 ≤ s.encSpace)
    (hd : isDirect s.cfg cu = false) (hclass : cu ≠ unitOfByte s.cfg.shift ∨ s.enc.mode = .base64) :
    ∃ t, exec (.encPut cu) s = .next t ∧ EncFrame s t ∧
      EncDelivers s t (packedOut s.cfg s.enc cu) ∧ t.enc = packedState s.enc cu := by
  have hput := encPut_other s.cfg s.enc cu s.encSpace hn hd hclass
  rw [encPacked_eq] at hput
  exact exec_delivers (exec_encPut_of_end hput) (length_packedOut_le hinv s.cfg cu)

/-! ## The faults and the bytes of ENC (R137, R138) -/

/-- What R137 and R138 allow as the end of an ENC command: bytes below 128, or one of two fault statuses. -/
def EncEnd.Clean : EncEnd → Prop
  | .ok _ out => SevenBit out
  | .fault st => st = .overflow ∨ st = .badcmd

theorem sevenBit_closingOut (u : Setup) (e : EncState) {cu : CodeUnit} (hd : isDirect u.cfg cu = true) :
    SevenBit (closingOut u.cfg e cu) := by
  have hlow := lowByte_lt_of_isDirect hd
  unfold closingOut
  split_ifs <;> simp [sevenBit_padChar, unshift_lt, hlow]

theorem sevenBit_packedOut (u : Setup) (e : EncState) (cu : CodeUnit) :
    SevenBit (packedOut u.cfg e cu) := by
  refine (sevenBit_append ..).2 ⟨?_, sevenBit_map_charOf u _⟩
  cases e.mode <;> simp [opening, shift_lt]

theorem encPut_clean (u : Setup) (e : EncState) (cu : CodeUnit) (n : Nat) :
    (encPut u.cfg e cu n).Clean := by
  have hend := encPut_cases u.cfg e cu n
  generalize encPut u.cfg e cu n = x at hend
  cases hend with
  | overflow => exact .inl rfl
  | direct _ hd =>
    have hlow := lowByte_lt_of_isDirect hd
    simpa [EncEnd.Clean] using hlow
  | closed _ hd => exact sevenBit_closingOut u e hd
  | shift => simp [EncEnd.Clean, shift_lt, unshift_lt]
  | packed => exact sevenBit_packedOut u e cu

theorem encFlush_clean (u : Setup) (e : EncState) (n : Nat) : (encFlush u.cfg e n).Clean := by
  cases hmode : e.mode with
  | direct =>
    rw [encFlush_direct u.cfg n hmode]
    exact sevenBit_nil
  | base64 =>
    by_cases hn : n < 2
    · rw [encFlush_overflow u.cfg hn hmode]
      exact .inl rfl
    · rw [encFlush_open u.cfg (not_lt.1 hn) hmode]
      simp [EncEnd.Clean, sevenBit_padChar, unshift_lt]

/-- Whatever the word and the state, a command of ENC's port ends as R137 and R138 allow. -/
theorem encCommandEnd_clean (u : Setup) (e : EncState) (w : EncWord) (n : Nat) :
    (encCommandEnd u.cfg e w n).Clean := by
  unfold encCommandEnd
  split_ifs
  · exact encPut_clean u e _ n
  · exact encFlush_clean u e n
  · exact sevenBit_nil
  · exact .inr rfl

theorem finishEnc_status_of_clean {x : EncEnd} (hx : x.Clean) (s : State) :
    (finishEnc x s).encRes.status = .ok ∨ (finishEnc x s).encRes.status = .overflow ∨
      (finishEnc x s).encRes.status = .badcmd := by
  cases x with
  | ok e out => exact .inl rfl
  | fault st => exact .inr hx

theorem finishEnc_encOut_of_clean {x : EncEnd} (hx : x.Clean) (s : State) :
    ∃ out, (finishEnc x s).encOut = s.encOut ++ out ∧ SevenBit out := by
  cases x with
  | ok e out => exact ⟨out, rfl, hx⟩
  | fault st => exact ⟨[], (List.append_nil _).symm, sevenBit_nil⟩

/-! ## The obligations -/

/-- Settles O13: an equation for either mode, and the unshift rule written out. -/
theorem encPutOfADirectUnit : Obligations.EncPutOfADirectUnit := by
  intro cu s hn hd
  have hput := encPut_direct s.cfg s.enc cu s.encSpace hn hd
  have hbyte : (lowByte cu).toNat = cu.toNat := by
    have hlt := lt_of_isDirect hd
    rw [lowByte_toNat]
    omega
  cases hmode : s.enc.mode with
  | direct =>
    rw [encDirect_of_direct _ _ hmode] at hput
    obtain ⟨t, hexec, hframe, hout, henc⟩ :=
      exec_delivers (exec_encPut_of_end hput) (by simp)
    exact ⟨t, hexec, hframe, hbyte, fun _ => ⟨hout, henc⟩, nofun⟩
  | base64 =>
    rw [encDirect_of_base64 _ _ hmode] at hput
    obtain ⟨t, hexec, hframe, hout, henc⟩ :=
      exec_delivers (exec_encPut_of_end hput) (length_closingOut_le ..)
    simp only [closingOut, padChar_eq_ite, needUnshift_iff] at hout
    exact ⟨t, hexec, hframe, hbyte, nofun, fun _ => ⟨hout, henc⟩⟩

/-- Settles O16: in Direct mode nothing is pending, so the code unit packs behind the shift byte alone. -/
theorem encPutEntersARun : Obligations.EncPutEntersARun := by
  intro cu s hinv hn hd hshift hmode
  have ⟨_, _, hdirect⟩ := hinv
  obtain ⟨hpending, -⟩ := hdirect hmode
  obtain ⟨t, hexec, hframe, hout, henc⟩ := exec_encPut_packed hinv hn hd (.inl hshift)
  rw [packedOut_zero _ _ hinv hpending, hmode] at hout
  rw [packedState_zero _ hinv hpending] at henc
  exact ⟨t, hexec, hframe, hout, henc⟩

/-- Settles O17: the code unit packs, in the three cases of `pack`. -/
theorem encPutContinuesARun : Obligations.EncPutContinuesARun := by
  intro cu s hinv hn hd hmode
  obtain ⟨t, hexec, hframe, hout, henc⟩ := exec_encPut_packed hinv hn hd (.inr hmode)
  refine ⟨t, hexec, hframe, fun hpending => ?_, fun hpending => ?_, fun hpending => ?_⟩
  · rw [packedOut_zero _ _ hinv hpending, hmode] at hout
    exact ⟨hout, henc.trans (packedState_zero _ hinv hpending)⟩
  · rw [packedOut_four _ _ hpending, hmode] at hout
    exact ⟨hout, henc.trans (packedState_four _ hpending)⟩
  · rw [packedOut_two _ _ hpending, hmode] at hout
    exact ⟨hout, henc.trans (packedState_two _ hpending)⟩

/-- Settles O19, by the ways in which an `ENC_PUT` with room ends. -/
theorem encPutPutsOutOneToThreeBytes : Obligations.EncPutPutsOutOneToThreeBytes := by
  intro cu s hinv hn
  have hexec := exec_encPut cu s
  have hend := encPut_cases s.cfg s.enc cu s.encSpace
  generalize encPut s.cfg s.enc cu s.encSpace = x at hexec hend
  cases hend with
  | overflow hlt => omega
  | direct _ hd hmode =>
    exact ⟨_, _, hexec, finishEnc_delivers _ _ s (by simp), by simp [hd, hmode]⟩
  | closed _ hd hmode =>
    have hlen := length_closingOut s.cfg s.enc cu
    have hle := length_closingOut_le s.cfg s.enc cu
    refine ⟨_, _, hexec, finishEnc_delivers _ _ s hle, by omega, hle, ?_⟩
    simp [hd, hmode, hlen]
  | shift _ hd hshift hmode =>
    subst hshift
    exact ⟨_, _, hexec, finishEnc_delivers _ _ s (by simp), by simp [hd, hmode]⟩
  | packed _ hd hclass =>
    have hle := length_packedOut_le hinv s.cfg cu
    refine ⟨_, _, hexec, finishEnc_delivers _ _ s hle, ?_⟩
    cases hmode : s.enc.mode with
    | direct =>
      have hshift : cu ≠ unitOfByte s.cfg.shift := hclass.resolve_right (by simp [hmode])
      simp [length_packedOut_direct hinv s.cfg cu hmode, hd, hshift]
    | base64 =>
      have hlen := length_packedOut_base64 hinv s.cfg cu hmode
      have hone : 1 ≤ (packedOut s.cfg s.enc cu).length := by split_ifs at hlen <;> omega
      exact ⟨hone, hle, by simp [hd, hlen]⟩

/-- Settles O22: the end of a command of ENC's port shows its status. -/
theorem encNeverReportsMalformed : Obligations.EncNeverReportsMalformed := by
  intro w n s
  have hstatus :=
    finishEnc_status_of_clean (encCommandEnd_clean s.setup s.enc w n) (present ⟨.enc w, n⟩ s)
  refine ⟨_, runCommand_encWord w n s, fun hmal => ?_, hstatus.resolve_left⟩
  simp [hmal] at hstatus

/-- Settles O23: the end of a command of ENC's port appends its bytes. -/
theorem encBytesAreSevenBit : Obligations.EncBytesAreSevenBit := by
  intro w n s t ht
  cases (runCommand_encWord w n s).symm.trans ht
  simpa only [present_encOut] using
    finishEnc_encOut_of_clean (encCommandEnd_clean s.setup s.enc w n) (present ⟨.enc w, n⟩ s)

/-- Settles O12: the command ends `OK` with `encInit`, and the word's `op` selects it. -/
theorem encResetRestoresTheEncoder : Obligations.EncResetRestoresTheEncoder := by
  refine ⟨fun s => ?_, fun cu => decode_enc_eq_ok_iff.2 (.inr (.inr ⟨encOpField_append _ cu, rfl⟩))⟩
  obtain ⟨t, hexec, hframe, hout, henc⟩ := exec_delivers (exec_encReset s) (by simp)
  exact ⟨t, hexec, henc, hout, hframe, fun hinit => henc.trans hinit.symm⟩

/-- Settles O14: S1 and S2 by a table of the numbers below 128, S3 because it is strict. -/
theorem unshiftOmissionInTheCanonicalStyles : Obligations.UnshiftOmissionInTheCanonicalStyles := fun _ =>
  ⟨needUnshift_eq_false_iff_of_table (by decide +kernel),
    needUnshift_eq_false_iff_of_table (by decide +kernel), needUnshift_iff.2 (.inl rfl)⟩

/-- Settles O15: by W4 the shift byte's code unit is not direct, so it is of class SHF. -/
theorem encPutOfTheShiftUnitInDirectMode : Obligations.EncPutOfTheShiftUnitInDirectMode := by
  intro s hn hmode
  have hput := encPut_shift s.cfg s.enc s.encSpace hn (isDirect_shift s.setup) hmode
  exact exec_delivers (exec_encPut_of_end hput) (by simp)

/-- Settles O18: below four places the command faults, with four it ends `OK`. -/
theorem encPutOverflowsBelowFourPlaces : Obligations.EncPutOverflowsBelowFourPlaces := by
  intro cu s
  by_cases hn : s.encSpace < 4
  · obtain ⟨t, hexec, hframe, hfault⟩ :=
      exec_faults (exec_encPut_of_end (encPut_overflow s.cfg s.enc cu s.encSpace hn))
    have ⟨hstatus, _⟩ := hfault
    exact ⟨t, hexec, hframe, iff_of_true hstatus hn, fun _ => hfault, fun hroom => by omega⟩
  · obtain ⟨e, out, hput⟩ := encPut_of_room s.cfg s.enc cu (not_lt.1 hn)
    obtain ⟨hframe, -⟩ := finishEnc_frame (.ok e out) s
    exact ⟨_, exec_encPut_of_end hput, hframe, iff_of_false nofun hn, fun hlt => absurd hlt hn,
      fun _ => rfl⟩

/-- Settles O20: an equation for either mode. -/
theorem encFlushClosesTheRun : Obligations.EncFlushClosesTheRun := by
  refine ⟨fun s hmode => ?_, fun s hmode hn => ?_⟩
  · exact exec_delivers (exec_encFlush_of_end (encFlush_direct s.cfg s.encSpace hmode)) (by simp)
  · have hlen := length_padChar_append_le s.cfg s.enc s.cfg.unshift
    rw [← padChar_eq_ite]
    exact exec_delivers (exec_encFlush_of_end (encFlush_open s.cfg hn hmode)) (hlen.trans (Nat.le_succ 2))

/-- Settles O21: the three ways in which the command ends. -/
theorem encFlushOverflowsBelowTwoPlaces : Obligations.EncFlushOverflowsBelowTwoPlaces := by
  intro s
  cases hmode : s.enc.mode with
  | direct =>
    obtain ⟨hframe, -⟩ := finishEnc_frame (.ok s.enc []) s
    exact ⟨_, exec_encFlush_of_end (encFlush_direct s.cfg s.encSpace hmode), hframe,
      iff_of_false nofun nofun, nofun⟩
  | base64 =>
    by_cases hn : s.encSpace < 2
    · obtain ⟨t, hexec, hframe, hfault⟩ :=
        exec_faults (exec_encFlush_of_end (encFlush_overflow s.cfg hn hmode))
      have ⟨hstatus, _⟩ := hfault
      exact ⟨t, hexec, hframe, iff_of_true hstatus ⟨rfl, hn⟩, fun _ _ => hfault⟩
    · have hflush := encFlush_open s.cfg (not_lt.1 hn) hmode
      obtain ⟨hframe, -⟩ := finishEnc_frame (.ok encInit (padChar s.cfg s.enc ++ [s.cfg.unshift])) s
      exact ⟨_, exec_encFlush_of_end hflush, hframe, iff_of_false nofun fun h => hn h.2,
        fun _ hlt => absurd hlt hn⟩

end Sys2Proof.Machine
end

section
/-! The statements of spec/42_decoder.md: how `DEC_PUT` ends in each class of R152, said once by an equation per
case; then which bytes end `OVERFLOW` and which end `MALFORMED`, and what each end leaves in `D`. -/

namespace Sys2Proof.Machine

/-! ## An end that puts out a code unit (R159) -/

/-- A `DEC_PUT` that puts `u` out and leaves `d`, or ends `OVERFLOW` when there is no place for it. -/
def putOut (d : DecState) (u : CodeUnit) (n : Nat) : DecEnd :=
  if n < 1 then .fault .overflow else .ok d (some u)

theorem putOut_of_room (d : DecState) (u : CodeUnit) {n : Nat} (hn : 1 ≤ n) :
    putOut d u n = .ok d (some u) := if_neg (not_lt.2 hn)

theorem putOut_of_no_room (d : DecState) (u : CodeUnit) {n : Nat} (hn : n < 1) :
    putOut d u n = .fault .overflow := if_pos hn

theorem putOut_eq_overflow_iff {d : DecState} {u : CodeUnit} {n : Nat} :
    putOut d u n = .fault .overflow ↔ n < 1 := by
  unfold putOut
  split_ifs with hn
  · exact iff_of_true rfl hn
  · exact iff_of_false nofun hn

theorem putOut_ne_malformed (d : DecState) (u : CodeUnit) (n : Nat) : putOut d u n ≠ .fault .malformed := by
  unfold putOut
  split_ifs <;> exact nofun

/-! ## The leftover test and the closed and opened run (R153, R155, R161) -/

theorem padOk_iff {d : DecState} :
    padOk d = true ↔ (d.bits = 0 ∨ d.bits = 2 ∨ d.bits = 4) ∧ d.acc = 0#16 := by
  simp [padOk, or_assoc]

theorem accept_openRun (p : Params) (d : DecState) :
    (accept p (openRun d)).mode = .base64 ∧ (accept p (openRun d)).bits = 0 ∧
      (accept p (openRun d)).acc = 0#16 ∧ (accept p (openRun d)).cnt = 0 ∧
      SameDiagnostics d (accept p (openRun d)) := ⟨rfl, rfl, rfl, rfl, rfl, rfl⟩

theorem accept_closeRun (p : Params) (d : DecState) :
    (accept p (closeRun d)).mode = .direct ∧ (accept p (closeRun d)).bits = 0 ∧
      (accept p (closeRun d)).acc = 0#16 ∧ (accept p (closeRun d)).cnt = 0 ∧
      SameDiagnostics d (accept p (closeRun d)) := ⟨rfl, rfl, rfl, rfl, rfl, rfl⟩

/-! ## A byte in Direct mode (R155, R156) -/

theorem directByte_shift (c : Cfg) (p : Params) (d : DecState) (n : Nat) :
    directByte c p d c.shift n = .ok (accept p (openRun d)) none := if_pos rfl

theorem directByte_of_ne_shift {c : Cfg} {b : Byte} (hb : b ≠ c.shift) (p : Params) (d : DecState)
    (n : Nat) : directByte c p d b n = putOut (accept p d) (unitOfByte b) n := if_neg hb

theorem directByte_eq_overflow_iff {c : Cfg} {p : Params} {d : DecState} {b : Byte} {n : Nat} :
    directByte c p d b n = .fault .overflow ↔ n < 1 ∧ b ≠ c.shift := by
  by_cases hb : b = c.shift
  · rw [hb, directByte_shift]
    exact iff_of_false nofun fun h => h.2 rfl
  · rw [directByte_of_ne_shift hb, putOut_eq_overflow_iff, and_iff_left hb]

theorem directByte_ne_malformed (c : Cfg) (p : Params) (d : DecState) (b : Byte) (n : Nat) :
    directByte c p d b n ≠ .fault .malformed := by
  by_cases hb : b = c.shift
  · rw [hb, directByte_shift]
    exact nofun
  · rw [directByte_of_ne_shift hb]
    exact putOut_ne_malformed _ _ n

/-! ## A base64 character (R158, R159) -/

theorem decChar_eq_overflow_iff {p : Params} {d : DecState} {v : Sextet} {n : Nat} :
    decChar p d v n = .fault .overflow ↔ n < 1 ∧ 10 ≤ d.bits := by
  by_cases hroom : 10 ≤ d.bits → 1 ≤ n
  · rw [decChar_of_room hroom]
    exact iff_of_false nofun fun ⟨hn, hbits⟩ => absurd (hroom hbits) (not_le.2 hn)
  · rw [decChar, if_pos (by omega)]
    exact iff_of_true rfl (by omega)

theorem decChar_ne_malformed (p : Params) (d : DecState) (v : Sextet) (n : Nat) :
    decChar p d v n ≠ .fault .malformed := by
  unfold decChar
  split_ifs <;> exact nofun

/-- One more character's bits below `k` buffered ones are `k + 6` bits. -/
theorem mul_add_sextet_lt {a k : Nat} (ha : a < 2 ^ k) (v : Sextet) : a * 64 + v.toNat < 2 ^ (k + 6) := by
  have hv : v.toNat < 64 := v.isLt
  rw [Nat.pow_add]
  omega

/-- A character that drains nothing moves the buffered bits up by six (R160). -/
theorem absorb_short_acc (p : Params) {d : DecState} (hinv : DecInv p d) (v : Sextet) (h : d.bits < 10) :
    (absorb p d v).acc.toNat = d.acc.toNat * 64 + v.toNat := by
  obtain ⟨-, hacc, -⟩ := hinv
  have hlt : d.acc.toNat * 64 + v.toNat < 2 ^ 16 :=
    (mul_add_sextet_lt hacc v).trans_le (Nat.pow_le_pow_right (by decide) (by omega))
  rw [absorb_short p v h]
  exact (BitVec.toNat_ofNat ..).trans (Nat.mod_eq_of_lt hlt)

/-- A character that drains a code unit leaves the bits below the top sixteen (R160). -/
theorem absorb_full_acc (p : Params) {d : DecState} (hinv : DecInv p d) (v : Sextet) (h : 10 ≤ d.bits) :
    (absorb p d v).acc.toNat = (d.acc.toNat * 64 + v.toNat) % 2 ^ (d.bits - 10) := by
  obtain ⟨⟨-, hbits⟩, -⟩ := hinv
  have hlt : (d.acc.toNat * 64 + v.toNat) % 2 ^ (d.bits - 10) < 2 ^ 16 :=
    (Nat.mod_lt _ (Nat.two_pow_pos _)).trans_le (Nat.pow_le_pow_right (by decide) (by omega))
  rw [absorb_full p v h]
  exact (BitVec.toNat_ofNat ..).trans (Nat.mod_eq_of_lt hlt)

/-- The code unit drained is the top sixteen of the buffered bits, uncut (R160). -/
theorem drained_toNat {p : Params} {d : DecState} (hinv : DecInv p d) (v : Sextet) (h : 10 ≤ d.bits) :
    (BitVec.ofNat 16 ((d.acc.toNat * 64 + v.toNat) / 2 ^ (d.bits - 10))).toNat =
      (d.acc.toNat * 64 + v.toNat) / 2 ^ (d.bits - 10) := by
  obtain ⟨-, hacc, -⟩ := hinv
  have hsplit : d.bits + 6 = (d.bits - 10) + 16 := by omega
  have hlt := mul_add_sextet_lt hacc v
  rw [hsplit, Nat.pow_add] at hlt
  exact (BitVec.toNat_ofNat ..).trans (Nat.mod_eq_of_lt (Nat.div_lt_of_lt_mul hlt))

/-! ## The unshift byte (R162, R163, R164) -/

theorem decUnshift_empty (c : Cfg) (p : Params) {d : DecState} (n : Nat) (hempty : d.bits = 0 ∧ d.cnt = 0) :
    decUnshift c p d n = putOut (accept p { d with mode := .direct }) (unitOfByte c.shift) n := if_pos hempty

theorem decUnshift_closes (c : Cfg) (p : Params) {d : DecState} (n : Nat)
    (hempty : ¬ (d.bits = 0 ∧ d.cnt = 0)) (hpad : padOk d = true) :
    decUnshift c p d n = .ok (accept p (closeRun d)) none := by
  rw [decUnshift, if_neg hempty, if_pos hpad]

theorem decUnshift_of_not_padOk (c : Cfg) (p : Params) {d : DecState} (n : Nat)
    (hempty : ¬ (d.bits = 0 ∧ d.cnt = 0)) (hpad : padOk d = false) :
    decUnshift c p d n = .fault .malformed := by
  rw [decUnshift, if_neg hempty, if_neg (ne_true_of_eq_false hpad)]

theorem decUnshift_eq_overflow_iff {c : Cfg} {p : Params} {d : DecState} {n : Nat} :
    decUnshift c p d n = .fault .overflow ↔ n < 1 ∧ d.bits = 0 ∧ d.cnt = 0 := by
  by_cases hempty : d.bits = 0 ∧ d.cnt = 0
  · rw [decUnshift_empty c p n hempty, putOut_eq_overflow_iff, and_iff_left hempty]
  · refine iff_of_false ?_ fun h => hempty h.2
    cases hpad : padOk d with
    | true => rw [decUnshift_closes c p n hempty hpad]; exact nofun
    | false => rw [decUnshift_of_not_padOk c p n hempty hpad]; exact nofun

theorem decUnshift_eq_malformed_iff {c : Cfg} {p : Params} {d : DecState} {n : Nat} :
    decUnshift c p d n = .fault .malformed ↔ ¬ (d.bits = 0 ∧ d.cnt = 0) ∧ padOk d = false := by
  by_cases hempty : d.bits = 0 ∧ d.cnt = 0
  · rw [decUnshift_empty c p n hempty]
    exact iff_of_false (putOut_ne_malformed _ _ n) fun h => h.1 hempty
  · cases hpad : padOk d with
    | true =>
      rw [decUnshift_closes c p n hempty hpad]
      exact iff_of_false nofun nofun
    | false =>
      rw [decUnshift_of_not_padOk c p n hempty hpad]
      exact iff_of_true rfl ⟨hempty, rfl⟩

/-! ## A foreign byte (R165 to R168) -/

/-- A foreign byte closes its run: a non-strict style, a code unit drained, a legal leftover (R166). -/
abbrev ClosesImplicitly (c : Cfg) (d : DecState) : Prop :=
  c.strict = false ∧ d.cnt ≠ 0 ∧ padOk d = true

theorem decForeign_closes {c : Cfg} {d : DecState} (h : ClosesImplicitly c d) (p : Params) (b : Byte)
    (n : Nat) : decForeign c p d b n = directByte c p (closeRun d) b n := by
  obtain ⟨hstrict, hcnt, hpad⟩ := h
  simp only [decForeign, hstrict, hcnt, hpad, Bool.false_eq_true, if_false, not_true]

theorem decForeign_of_not_closes {c : Cfg} {d : DecState} (h : ¬ ClosesImplicitly c d) (p : Params) (b : Byte)
    (n : Nat) : decForeign c p d b n = .fault .malformed := by
  unfold decForeign
  split_ifs with hstrict hcnt hpad
  · rfl
  · rfl
  · exact absurd ⟨eq_false_of_ne_true hstrict, hcnt, hpad⟩ h
  · rfl

theorem decForeign_eq_overflow_iff {c : Cfg} {p : Params} {d : DecState} {b : Byte} {n : Nat} :
    decForeign c p d b n = .fault .overflow ↔ n < 1 ∧ b ≠ c.shift ∧ ClosesImplicitly c d := by
  by_cases h : ClosesImplicitly c d
  · rw [decForeign_closes h, directByte_eq_overflow_iff, and_iff_left h]
  · rw [decForeign_of_not_closes h]
    exact iff_of_false nofun fun ⟨_, _, hcloses⟩ => h hcloses

theorem decForeign_eq_malformed_iff {c : Cfg} {p : Params} {d : DecState} {b : Byte} {n : Nat} :
    decForeign c p d b n = .fault .malformed ↔ ¬ ClosesImplicitly c d := by
  by_cases h : ClosesImplicitly c d
  · rw [decForeign_closes h]
    exact iff_of_false (directByte_ne_malformed c p _ b n) (not_not.2 h)
  · exact iff_of_true (decForeign_of_not_closes h p b n) h

/-! ## The classes of `DEC_PUT` (R152) -/

/-- The class of the byte of a `DEC_PUT`, with the part of R153 that ends the command in that class. -/
inductive DecPutClass (c : Cfg) (p : Params) (d : DecState) (b : Byte) (n : Nat) : DecEnd → Prop
  /-- A byte that is no 7-bit byte, in either mode (R154). -/
  | high (hb : 128 ≤ b.toNat) : DecPutClass c p d b n (.fault .malformed)
  /-- Direct mode (R155, R156). -/
  | direct (hb : b.toNat < 128) (hmode : d.mode = .direct) : DecPutClass c p d b n (directByte c p d b n)
  /-- Base64 mode, a base64 character (R158). -/
  | char {v : Sextet} (hmode : d.mode = .base64) (hv : valueOf c b = some v) :
    DecPutClass c p d b n (decChar p d v n)
  /-- Base64 mode, the unshift byte (R162, R163, R164). -/
  | unshift (hmode : d.mode = .base64) (hb : b = c.unshift) : DecPutClass c p d b n (decUnshift c p d n)
  /-- Base64 mode, any other byte below 128 (R165). -/
  | foreign (hb : b.toNat < 128) (hmode : d.mode = .base64) (hv : valueOf c b = none) (hu : b ≠ c.unshift) :
    DecPutClass c p d b n (decForeign c p d b n)

/-- Every `DEC_PUT` is of one of the classes. -/
theorem decPut_class (u : Setup) (p : Params) (d : DecState) (b : Byte) (n : Nat) :
    DecPutClass u.cfg p d b n (decPut u.cfg p d b n) := by
  by_cases hb : 128 ≤ b.toNat
  · rw [decPut_high u.cfg p d b n hb]
    exact .high hb
  have hb : b.toNat < 128 := not_le.1 hb
  cases hmode : d.mode with
  | direct =>
    rw [decPut_direct u.cfg p d b n hb hmode]
    exact .direct hb hmode
  | base64 =>
    cases hv : valueOf u.cfg b with
    | some v =>
      rw [decPut_char u.cfg p d b v n hv hmode]
      exact .char hmode hv
    | none =>
      by_cases hu : b = u.cfg.unshift
      · rw [hu, decPut_unshift u p d n hmode]
        exact .unshift hmode rfl
      · rw [decPut_foreign u.cfg p d b n hb hmode hv hu]
        exact .foreign hb hmode hv hu

/-! ## The end of `DEC_FLUSH` (R176, R177) -/

theorem decFlush_direct {d : DecState} (hmode : d.mode = .direct) : decFlush d = .ok d none := by
  simp only [decFlush, hmode]

theorem decFlush_base64 {d : DecState} (hmode : d.mode = .base64) : decFlush d = .fault .malformed := by
  simp only [decFlush, hmode]

/-! ## Which bytes overflow and which are malformed (R159, R212) -/

section Faults

variable {u : Setup} {p : Params} {d d' : DecState} {b : Byte} {n : Nat} {x : DecEnd}

theorem ne_unshift_of_valueOf {v : Sextet} (hv : valueOf u.cfg b = some v) : b ≠ u.cfg.unshift := by
  rintro rfl
  simp [valueOf_unshift] at hv

/-- The bytes for which `DEC_PUT` would put out a code unit: one case per class but the first (R156, R159,
R163, R166). -/
def PutEmits (c : Cfg) (d : DecState) (b : Byte) : Prop :=
  (d.mode = .direct ∧ b ≠ c.shift) ∨
    (d.mode = .base64 ∧ valueOf c b ≠ none ∧ 10 ≤ d.bits) ∨
    (d.mode = .base64 ∧ b = c.unshift ∧ d.bits = 0 ∧ d.cnt = 0) ∨
    (d.mode = .base64 ∧ valueOf c b = none ∧ b ≠ c.unshift ∧ b ≠ c.shift ∧ ClosesImplicitly c d)

/-- The bytes for which `DEC_PUT` is malformed: the causes M1 to M5 of R212. None reads `space`. -/
def PutMalformed (c : Cfg) (d : DecState) (b : Byte) : Prop :=
  128 ≤ b.toNat ∨
    (d.mode = .base64 ∧ b = c.unshift ∧ ¬ (d.bits = 0 ∧ d.cnt = 0) ∧ padOk d = false) ∨
    (d.mode = .base64 ∧ b.toNat < 128 ∧ valueOf c b = none ∧ b ≠ c.unshift ∧ ¬ ClosesImplicitly c d)

/-- `OVERFLOW` is one code unit without a place (R159, D7), and no byte of 128 or more is one (D16). -/
theorem DecPutClass.eq_overflow_iff (hx : DecPutClass u.cfg p d b n x) :
    x = .fault .overflow ↔ n < 1 ∧ b.toNat < 128 ∧ PutEmits u.cfg d b := by
  unfold PutEmits
  cases hx with
  | high hb => exact iff_of_false nofun fun ⟨_, hlt, _⟩ => absurd hlt (not_lt.2 hb)
  | direct hb hmode => simp [directByte_eq_overflow_iff, hb, hmode]
  | char hmode hv =>
    have hu := ne_unshift_of_valueOf hv
    simp [decChar_eq_overflow_iff, lt_of_valueOf hv, hmode, hv, hu]
  | unshift hmode hb =>
    simp [decUnshift_eq_overflow_iff, hb, unshift_lt, valueOf_unshift, hmode]
  | foreign hb hmode hv hu => simp [decForeign_eq_overflow_iff, hb, hmode, hv, hu]

theorem DecPutClass.eq_malformed_iff (hx : DecPutClass u.cfg p d b n x) :
    x = .fault .malformed ↔ PutMalformed u.cfg d b := by
  unfold PutMalformed
  cases hx with
  | high hb => exact iff_of_true rfl (.inl hb)
  | direct hb hmode => simp [directByte_ne_malformed, hb, hmode]
  | char hmode hv =>
    have hu := ne_unshift_of_valueOf hv
    simp [decChar_ne_malformed, lt_of_valueOf hv, hmode, hv, hu]
  | unshift hmode hb =>
    simp [decUnshift_eq_malformed_iff, hb, unshift_lt, hmode]
  | foreign hb hmode hv hu => simp [decForeign_eq_malformed_iff, hb, hmode, hv, hu]

/-- A put that is malformed is so in every state with the same run (R175). -/
theorem PutMalformed.of_sameRun {c : Cfg} (h : PutMalformed c d b) (hrun : SameRun d d') :
    PutMalformed c d' b := by
  obtain ⟨hmode, hbits, hacc, hcnt⟩ := hrun
  simpa only [PutMalformed, ClosesImplicitly, padOk, hmode, hbits, hacc, hcnt] using h

end Faults

/-! ## What a command leaves, from how it ends -/

theorem exec_decPut_of_end {b : Byte} {s : State} {x : DecEnd}
    (h : decPut s.cfg s.par s.dec b s.decSpace = x) : exec (.decPut b) s = .next (finishDec x s) :=
  h ▸ exec_decPut b s

theorem exec_decFlush_of_end {s : State} {x : DecEnd} (h : decFlush s.dec = x) :
    exec .decFlush s = .next (finishDec x s) :=
  h ▸ exec_decFlush s

section Exec

variable {i : Instr} {s : State}

/-- A DEC command that ends `OK` delivers its output and writes `D`, and nothing else. -/
theorem exec_decDelivers {d : DecState} {out : Option CodeUnit}
    (h : exec i s = .next (finishDec (.ok d out) s)) :
    ∃ t, exec i s = .next t ∧ DecFrame s t ∧ DecDelivers s t out ∧ t.dec = d := by
  obtain ⟨hframe, -⟩ := finishDec_frame (.ok d out) s
  exact ⟨_, h, hframe, finishDec_delivers d out s, rfl⟩

/-- A DEC command that ends `MALFORMED` makes its records, and nothing else. -/
theorem exec_decMalformed (h : exec i s = .next (finishDec (.fault .malformed) s)) :
    ∃ t, exec i s = .next t ∧ DecFrame s t ∧ DecMalformed s t := by
  obtain ⟨hframe, -⟩ := finishDec_frame (.fault .malformed) s
  exact ⟨_, h, hframe, takeFault_decMalformed s⟩

end Exec

/-- A status other than `OK` comes from that fault outcome (R219). -/
theorem finishDec_status_eq_iff {x : DecEnd} {st : Status} (hst : st ≠ .ok) (s : State) :
    (finishDec x s).decRes.status = st ↔ x = .fault st := by
  cases x with
  | ok d out => exact iff_of_false hst.symm nofun
  | fault st' => exact ⟨congrArg DecEnd.fault, DecEnd.fault.inj⟩

theorem finishDec_decFaulted_of_overflow {x : DecEnd} {s : State}
    (h : (finishDec x s).decRes.status = .overflow) : DecFaulted s (finishDec x s) .overflow := by
  rw [(finishDec_status_eq_iff (by decide) s).1 h]
  exact takeFault_decFaulted .overflow s nofun

section Put

variable {b : Byte} {s t : State}

/-- A `DEC_PUT` that puts out a code unit delivers it, or changes nothing when there is no place (R159). -/
theorem exec_decPut_putOut {d : DecState} {u : CodeUnit}
    (h : decPut s.cfg s.par s.dec b s.decSpace = putOut d u s.decSpace) :
    ∃ t, exec (.decPut b) s = .next t ∧ DecFrame s t ∧
      (1 ≤ s.decSpace → DecDelivers s t (some u) ∧ t.dec = d) ∧
      (s.decSpace < 1 → DecFaulted s t .overflow) := by
  obtain ⟨hframe, -⟩ := finishDec_frame (putOut d u s.decSpace) s
  refine ⟨_, exec_decPut_of_end h, hframe, fun hn => ?_, fun hn => ?_⟩
  · rw [putOut_of_room d u hn]
    exact ⟨finishDec_delivers d (some u) s, rfl⟩
  · rw [putOut_of_no_room d u hn]
    exact takeFault_decFaulted .overflow s nofun

theorem exec_decPut_of_putMalformed (h : PutMalformed s.cfg s.dec b) :
    ∃ t, exec (.decPut b) s = .next t ∧ DecFrame s t ∧ DecMalformed s t :=
  exec_decMalformed (exec_decPut_of_end ((decPut_class s.setup ..).eq_malformed_iff.2 h))

/-- A `DEC_PUT` that ended `MALFORMED` was given such a byte, and made the records of R175. -/
theorem putMalformed_of_status (ht : exec (.decPut b) s = .next t) (hst : t.decRes.status = .malformed) :
    PutMalformed s.cfg s.dec b ∧ DecFrame s t ∧ DecMalformed s t := by
  cases (exec_decPut b s).symm.trans ht
  have hend := (finishDec_status_eq_iff (by decide) s).1 hst
  have hput := (decPut_class s.setup ..).eq_malformed_iff.1 hend
  obtain ⟨t', ht', hleaves⟩ := exec_decPut_of_putMalformed hput
  cases ht'.symm.trans ht
  exact ⟨hput, hleaves⟩

end Put

/-! ## A `MALFORMED` and the next one (R175, R256) -/

section Malformed

variable {s t t' : State}

theorem DecMalformed.sameRun (h : DecMalformed s t) : SameRun s.dec t.dec := by
  obtain ⟨-, -, -, -, -, hdec⟩ := h
  rw [hdec]
  exact ⟨rfl, rfl, rfl, rfl⟩

/-- A `MALFORMED` right after another reports the same position and records nothing new. -/
theorem DecMalformed.again (h : DecMalformed s t) (h' : DecMalformed t t') :
    t'.decRes.pos = t.decRes.pos ∧ t'.dec = t.dec ∧ t'.decOut = t.decOut := by
  obtain ⟨-, -, -, hpos, -, hdec⟩ := h
  obtain ⟨-, -, -, hpos', hout', hdec'⟩ := h'
  have hinpos : t.dec.inpos = s.dec.inpos := by rw [hdec]
  refine ⟨hpos'.trans (hinpos.trans hpos.symm), ?_, hout'⟩
  rw [hdec', hinpos, hdec]

end Malformed

/-! ## The obligations -/

/-- Settles O28: the character is absorbed, and the invariant keeps the numbers inside sixteen bits. -/
theorem decPutOfABase64CharacterAccumulates : Obligations.DecPutOfABase64CharacterAccumulates := by
  intro b v s hinv hmode hv hroom
  have hput := decPut_char s.cfg s.par s.dec b v s.decSpace hv hmode
  rw [decChar_of_room hroom] at hput
  obtain ⟨t, hexec, hframe, hout, hdec⟩ := exec_decDelivers (exec_decPut_of_end hput)
  refine ⟨t, hexec, hframe, ?_⟩
  rw [hdec]
  refine ⟨hmode, ⟨rfl, rfl⟩, fun hbits => ?_, fun hbits => ?_⟩
  · rw [unpack_short _ _ _ hbits] at hout
    exact ⟨hout, congrArg DecState.bits (absorb_short s.par v hbits), absorb_short_acc s.par hinv v hbits⟩
  · rw [unpack_full _ _ _ hbits] at hout
    exact ⟨_, hout, congrArg DecState.bits (absorb_full s.par v hbits), drained_toNat hinv v hbits,
      absorb_full_acc s.par hinv v hbits⟩

/-- Settles O33: the byte is a Direct-mode byte of the closed run. -/
theorem decPutClosesARunImplicitly : Obligations.DecPutClosesARunImplicitly := by
  intro b s hmode hstrict hb hv hu hcnt hbits hacc
  have hput := (decPut_foreign s.cfg s.par s.dec b s.decSpace hb hmode hv hu).trans
    (decForeign_closes ⟨hstrict, hcnt, padOk_iff.2 ⟨hbits, hacc⟩⟩ s.par b s.decSpace)
  by_cases hshift : b = s.cfg.shift
  · rw [hshift, directByte_shift, ← hshift] at hput
    obtain ⟨t, hexec, hframe, hout, hdec⟩ := exec_decDelivers (exec_decPut_of_end hput)
    exact ⟨t, hexec, hframe, fun hne => absurd hshift hne, fun hne => absurd hshift hne,
      fun _ => ⟨hout, hdec ▸ accept_openRun s.par (closeRun s.dec)⟩⟩
  · rw [directByte_of_ne_shift hshift] at hput
    obtain ⟨t, hexec, hframe, hroom, hfull⟩ := exec_decPut_putOut hput
    refine ⟨t, hexec, hframe, fun _ hn => ?_, fun _ => hfull, fun h => absurd h hshift⟩
    obtain ⟨hout, hdec⟩ := hroom hn
    exact ⟨hout, hdec ▸ accept_closeRun s.par s.dec⟩

/-- Settles O34: without a code unit nothing closes implicitly; the bits by the invariant. -/
theorem foreignByteBeforeAnyUnitIsMalformed : Obligations.ForeignByteBeforeAnyUnitIsMalformed := by
  intro b s hinv hmode _ hb hv hu hcnt
  have hput : PutMalformed s.cfg s.dec b := .inr (.inr ⟨hmode, hb, hv, hu, fun ⟨_, hne, _⟩ => hne hcnt⟩)
  obtain ⟨-, -, -, hrun, -⟩ := hinv
  refine ⟨exec_decPut_of_putMalformed hput, hrun hmode hcnt, fun hbits => ?_⟩
  rw [← Bool.not_eq_true, padOk_iff]
  omega

/-- Settles O35: `OVERFLOW` is the end of a byte that would emit, class by class. -/
theorem decPutOverflowsOnlyWhenItWouldEmit : Obligations.DecPutOverflowsOnlyWhenItWouldEmit := by
  intro b s
  have hclass := decPut_class s.setup s.par s.dec b s.decSpace
  exact ⟨_, exec_decPut b s, finishDec_decFaulted_of_overflow,
    (finishDec_status_eq_iff (by decide) s).trans hclass.eq_overflow_iff⟩

/-- Settles O39: the causes of `MALFORMED` read the run and the byte, which are as they were. -/
theorem malformedByteStaysMalformed : Obligations.MalformedByteStaysMalformed := by
  intro b n s t ht hst m
  rw [issue_decPut] at ht
  obtain ⟨hput, ⟨-, hsetup, -⟩, hmal⟩ := putMalformed_of_status ht hst
  have hput' : PutMalformed t.cfg t.dec b := by
    rw [State.cfg, hsetup]
    exact hput.of_sameRun hmal.sameRun
  obtain ⟨t', hexec, -, hmal'⟩ := exec_decPut_of_putMalformed (s := { t with decSpace := m }) hput'
  have ⟨hstatus, _⟩ := hmal'
  exact ⟨t', (issue_decPut b m t).trans hexec, hstatus, hmal.again hmal'⟩

/-- Settles O24: the command ends `OK` with `decInit`, and the word's `op` selects it. -/
theorem decResetRestoresTheDecoder : Obligations.DecResetRestoresTheDecoder := by
  refine ⟨fun s => ?_, fun b => decode_dec_eq_ok_iff.2 (.inr (.inr ⟨decOpField_append _ b, rfl⟩))⟩
  obtain ⟨t, hexec, hframe, hout, hdec⟩ := exec_decDelivers (exec_decReset s)
  exact ⟨t, hexec, hdec, hout, hframe⟩

/-- Settles O25: the first cause of `MALFORMED`, in either mode. -/
theorem decPutOfAHighByteIsMalformed : Obligations.DecPutOfAHighByteIsMalformed := by
  intro b s hb
  obtain ⟨t, hexec, hframe, hmal⟩ := exec_decPut_of_putMalformed (s := s) (.inl hb)
  have ⟨hstatus, hnout, herrlen, _, hout, _⟩ := hmal
  exact ⟨t, hexec, hframe, hstatus, herrlen, hnout, hout, hmal.sameRun⟩

/-- Settles O26: the shift byte is below 128 (W3), so Direct mode takes it. -/
theorem decPutOfTheShiftByteOpensARun : Obligations.DecPutOfTheShiftByteOpensARun := by
  intro s hmode
  have hput := decPut_direct s.cfg s.par s.dec s.cfg.shift s.decSpace (shift_lt s.setup) hmode
  rw [directByte_shift] at hput
  obtain ⟨t, hexec, hframe, hout, hdec⟩ := exec_decDelivers (exec_decPut_of_end hput)
  exact ⟨t, hexec, hframe, hout, hdec ▸ accept_openRun s.par s.dec⟩

/-- Settles O27: the byte is put out, and only `D.inpos` of `D` is written. -/
theorem decPutInDirectModeEmitsTheByte : Obligations.DecPutInDirectModeEmitsTheByte := by
  intro b s hmode hb hshift
  have hput := decPut_direct s.cfg s.par s.dec b s.decSpace hb hmode
  rw [directByte_of_ne_shift hshift] at hput
  obtain ⟨t, hexec, hframe, hroom, hfull⟩ := exec_decPut_putOut hput
  refine ⟨t, hexec, hframe, fun hn => ?_, hfull⟩
  obtain ⟨hout, hdec⟩ := hroom hn
  rw [hdec]
  exact ⟨hout, unitOfByte_toNat b, ⟨rfl, rfl, rfl, rfl⟩, ⟨rfl, rfl⟩⟩

/-- Settles O31: the run is not empty and its leftover passes the test. -/
theorem decPutOfTheUnshiftByteClosesARun : Obligations.DecPutOfTheUnshiftByteClosesARun := by
  intro s hmode hempty hbits hacc
  have hput := (decPut_unshift s.setup s.par s.dec s.decSpace hmode).trans
    (decUnshift_closes s.cfg s.par s.decSpace hempty (padOk_iff.2 ⟨hbits, hacc⟩))
  obtain ⟨t, hexec, hframe, hout, hdec⟩ := exec_decDelivers (exec_decPut_of_end hput)
  exact ⟨t, hexec, hframe, hout, hdec ▸ accept_closeRun s.par s.dec⟩

/-- Settles O32: the shift character is put out; by the invariant the accumulator was zero. -/
theorem decPutOfTheUnshiftByteOnAnEmptyRun : Obligations.DecPutOfTheUnshiftByteOnAnEmptyRun := by
  intro s hinv hmode hbits hcnt
  have hput := (decPut_unshift s.setup s.par s.dec s.decSpace hmode).trans
    (decUnshift_empty s.cfg s.par s.decSpace ⟨hbits, hcnt⟩)
  have hacc := acc_eq_zero_of_bits hinv hbits
  obtain ⟨t, hexec, hframe, hroom, hfull⟩ := exec_decPut_putOut hput
  refine ⟨t, hexec, hframe, fun hn => ?_, hfull⟩
  obtain ⟨hout, hdec⟩ := hroom hn
  rw [hdec]
  exact ⟨hout, rfl, hbits, hacc, hcnt, rfl, rfl⟩

/-- Settles O37: an equation for the mode. -/
theorem decFlushInDirectModeIsClean : Obligations.DecFlushInDirectModeIsClean := by
  intro s hmode
  exact exec_decDelivers (exec_decFlush_of_end (decFlush_direct hmode))

/-- Settles O38: the run stays open, so the second command meets the same mode. -/
theorem decFlushOfAnOpenRunIsMalformed : Obligations.DecFlushOfAnOpenRunIsMalformed := by
  intro s hmode
  obtain ⟨t, hexec, hframe, hmal⟩ := exec_decMalformed (exec_decFlush_of_end (decFlush_base64 hmode))
  have ⟨hkept, _⟩ := hmal.sameRun
  have hmode' : t.dec.mode = .base64 := hkept.trans hmode
  obtain ⟨t', hexec', -, hmal'⟩ := exec_decMalformed (exec_decFlush_of_end (decFlush_base64 hmode'))
  obtain ⟨hpos, hdec, -⟩ := hmal.again hmal'
  exact ⟨t, t', hexec, hframe, hmal, hmode', hexec', hmal', hpos, hdec⟩

end Sys2Proof.Machine
end

section
/-! An alphabet that `TBL_NEW` refuses (spec/43_call_contract.md R203). -/

namespace Sys2Proof.Machine

/-- `TBL_NEW` has one way to fail, so a test that does not pass names it, whichever it is (R101). -/
theorem tblNew_eq_error {alphabet : List Nat}
    (h : ¬ (alphabet.length = 64 ∧ (∀ x ∈ alphabet, x < 128) ∧ alphabet.Nodup)) :
    tblNew alphabet = .error .constructionError := by
  cases htbl : tblNew alphabet with
  | error f =>
    cases f
    rfl
  | ok t =>
    obtain ⟨hlen, hlt, hnodup, -⟩ := tblNew_eq_ok_iff.1 htbl
    exact absurd ⟨hlen, hlt, hnodup⟩ h

/-- Bring-up ends in the `ConstructionError` of `TBL_NEW`, before it reads the style or the widths (R243). -/
theorem construct_of_tblNew_error {alphabet : List Nat} {f : Fault} (h : tblNew alphabet = .error f)
    (st : Style) (p : Params) : construct st alphabet p = .fault f := by
  simp only [construct, h]

/-- Settles O44: the first or the third test of `TBL_NEW` does not pass. -/
theorem badAlphabetFailsConstruction : Obligations.BadAlphabetFailsConstruction := by
  intro alphabet hbad
  have htbl := tblNew_eq_error (alphabet := alphabet) fun ⟨hlen, _, hnodup⟩ =>
    hbad.elim (fun hne => hne hlen) (fun hdup => hdup hnodup)
  exact ⟨htbl, construct_of_tblNew_error htbl⟩

end Sys2Proof.Machine
end

section
/-! The encoder's side of the call contract (spec/43_call_contract.md R191 to R202): what `ENC_STR` leaves and
puts out as a fold over the code units, and a call with any capacity as that fold over the units it consumed. -/

namespace Sys2Proof.Machine

/-! ## One `ENC_PUT` of a call (R191) -/

/-- `space` is read for the threshold alone (R124). -/
theorem encPut_eq_of_room (c : Cfg) (e : EncState) (cu : CodeUnit) {n : Nat} (hn : 4 ≤ n) :
    encPut c e cu n = encPut c e cu 4 := by
  have h : ¬ n < encWorst := not_lt.2 hn
  have h4 : ¬ 4 < encWorst := lt_irrefl 4
  simp only [encPut, h, h4, if_false]

/-- What a result delivers does not rest on the free values of its lanes, even for a list longer than the
lanes, as only a state without `EncInv` puts out. -/
theorem encResultOf_outputs_draw (st : Status) (out : List Byte) (n m : Nat) :
    (encResultOf st out n).outputs = (encResultOf st out m).outputs := by
  match out with
  | [] | [_] | [_, _] | _ :: _ :: _ :: _ => rfl

theorem length_outputs_le (r : EncResult) : r.outputs.length ≤ 3 := by
  rw [EncResult.outputs, List.length_take]
  exact Nat.min_le_right ..

/-- What an `ENC_PUT` with room leaves in `E`, and the bytes its result delivers. -/
def encUnit (c : Cfg) (e : EncState) (cu : CodeUnit) : EncState × List Byte :=
  match encPut c e cu 4 with
  | .ok e' out => (e', (encResultOf .ok out 0).outputs)
  | .fault _ => (e, [])

theorem encUnit_of_ok {c : Cfg} {e e' : EncState} {cu : CodeUnit} {out : List Byte}
    (h : encPut c e cu 4 = .ok e' out) : encUnit c e cu = (e', (encResultOf .ok out 0).outputs) := by
  simp only [encUnit, h]

theorem encUnit_of_short {c : Cfg} {e e' : EncState} {cu : CodeUnit} {out : List Byte}
    (h : encPut c e cu 4 = .ok e' out) (hlen : out.length ≤ 3) : encUnit c e cu = (e', out) := by
  rw [encUnit_of_ok h, encResultOf_outputs .ok out 0 hlen]

theorem length_encUnit_le (c : Cfg) (e : EncState) (cu : CodeUnit) : (encUnit c e cu).2.length ≤ 3 := by
  obtain ⟨e', out, h⟩ := encPut_of_room c e cu (Nat.le_refl 4)
  rw [encUnit_of_ok h]
  exact length_outputs_le _

theorem issue_encPut_of_room (cu : CodeUnit) {n : Nat} (hn : 4 ≤ n) (s : State) :
    ∃ t, issue (.encPut cu) n s = .next t ∧ t.setup = s.setup ∧ t.encRes.status = .ok ∧
      t.enc = (encUnit s.cfg s.enc cu).1 ∧ t.encRes.outputs = (encUnit s.cfg s.enc cu).2 := by
  obtain ⟨e', out, hput⟩ := encPut_of_room s.cfg s.enc cu (Nat.le_refl 4)
  have hput' := (encPut_eq_of_room s.cfg s.enc cu hn).trans hput
  rw [encUnit_of_ok hput]
  refine ⟨finishEnc (.ok e' out) { s with encSpace := n }, ?_, rfl, rfl, rfl,
    encResultOf_outputs_draw .ok out _ 0⟩
  rw [issue_encPut]
  exact exec_encPut_of_end hput'

theorem issue_encPut_of_no_room (cu : CodeUnit) {n : Nat} (hn : n < 4) (s : State) :
    ∃ t, issue (.encPut cu) n s = .next t ∧ t.setup = s.setup ∧ t.encRes.status = .overflow ∧
      t.enc = s.enc := by
  refine ⟨finishEnc (.fault .overflow) { s with encSpace := n }, ?_, rfl, rfl, rfl⟩
  rw [issue_encPut]
  exact exec_encPut_of_end (encPut_overflow s.cfg s.enc cu n hn)

/-! ## The loop of a call (R191) -/

/-- What code units leave in `E` and put out, each with room. -/
def encUnits (c : Cfg) : EncState → List CodeUnit → EncState × List Byte
  | e, [] => (e, [])
  | e, cu :: us =>
    let r := encUnits c (encUnit c e cu).1 us
    (r.1, (encUnit c e cu).2 ++ r.2)

theorem encUnits_append (c : Cfg) (us vs : List CodeUnit) (e : EncState) :
    encUnits c e (us ++ vs) =
      ((encUnits c (encUnits c e us).1 vs).1,
        (encUnits c e us).2 ++ (encUnits c (encUnits c e us).1 vs).2) := by
  induction us generalizing e with
  | nil => rfl
  | cons u us ih => simp only [List.cons_append, encUnits, ih, List.append_assoc]

theorem length_encUnits_le (c : Cfg) (e : EncState) (us : List CodeUnit) :
    (encUnits c e us).2.length ≤ 3 * us.length := by
  induction us generalizing e with
  | nil => exact Nat.le_refl 0
  | cons u us ih =>
    have hu := length_encUnit_le c e u
    have hus := ih (encUnit c e u).1
    simp only [encUnits, List.length_append, List.length_cons]
    omega

theorem encBufFrom_cons_ok {cap : Option Nat} {u : CodeUnit} {produced : List Byte} {s t : State}
    (ht : issue (.encPut u) (roomLeft cap produced.length 4) s = .next t) (hok : t.encRes.status = .ok)
    (us : List CodeUnit) (i : Nat) :
    encBufFrom cap (u :: us) i produced s = encBufFrom cap us (i + 1) (produced ++ t.encRes.outputs) t := by
  simp [encBufFrom, ht, hok]

theorem encBufFrom_cons_overflow {cap : Option Nat} {u : CodeUnit} {produced : List Byte} {s t : State}
    (ht : issue (.encPut u) (roomLeft cap produced.length 4) s = .next t)
    (hover : t.encRes.status = .overflow) (us : List CodeUnit) (i : Nat) :
    encBufFrom cap (u :: us) i produced s = .next ⟨.overflow, i, produced, t⟩ := by
  simp [encBufFrom, ht, hover]

/-- A call stops after some units, which it encoded as with room; an unbounded one takes them all. -/
theorem encBufFrom_eq_encUnits (cap : Option Nat) (us : List CodeUnit) :
    ∀ (i : Nat) (produced : List Byte) (s : State), ∃ c k, encBufFrom cap us i produced s = .next c ∧
      k ≤ us.length ∧ c.consumed = i + k ∧ c.state.setup = s.setup ∧
      c.state.enc = (encUnits s.cfg s.enc (us.take k)).1 ∧
      c.produced = produced ++ (encUnits s.cfg s.enc (us.take k)).2 ∧
      (cap = none → k = us.length ∧ c.result = .underflow) := by
  induction us with
  | nil =>
    intro i produced s
    exact ⟨_, 0, rfl, Nat.le_refl 0, rfl, rfl, rfl, (List.append_nil produced).symm, fun _ => ⟨rfl, rfl⟩⟩
  | cons u us ih =>
    intro i produced s
    by_cases hroom : 4 ≤ roomLeft cap produced.length 4
    · obtain ⟨t, hissue, hsetup, hok, henc, hout⟩ := issue_encPut_of_room u hroom s
      have hcfg : t.cfg = s.cfg := congrArg Setup.cfg hsetup
      obtain ⟨c, k, hc, hk, hcons, hsetup', henc', hprod, hall⟩ :=
        ih (i + 1) (produced ++ t.encRes.outputs) t
      rw [henc, hcfg] at henc' hprod
      refine ⟨c, k + 1, ?_, Nat.succ_le_succ hk, by omega, hsetup'.trans hsetup, henc', ?_, fun hcap => ?_⟩
      · rw [encBufFrom_cons_ok hissue hok, hc]
      · rw [hprod, hout, List.append_assoc]
        rfl
      · obtain ⟨hlen, hres⟩ := hall hcap
        exact ⟨congrArg Nat.succ hlen, hres⟩
    · obtain ⟨t, hissue, hsetup, hover, henc⟩ := issue_encPut_of_no_room u (not_le.1 hroom) s
      refine ⟨_, 0, encBufFrom_cons_overflow hissue hover us i, Nat.zero_le _, rfl, hsetup, henc,
        (List.append_nil produced).symm, ?_⟩
      rintro rfl
      exact absurd (Nat.le_refl 4) hroom

/-- `ENC_STR` takes all units and ends in `Underflow` (R87, R191). -/
theorem encStr_eq_encUnits (us : List CodeUnit) (s : State) :
    ∃ c, encStr us s = .next c ∧ c.result = .underflow ∧ c.state.setup = s.setup ∧
      c.state.enc = (encUnits s.cfg s.enc us).1 ∧ c.produced = (encUnits s.cfg s.enc us).2 := by
  obtain ⟨c, k, hc, -, -, hsetup, henc, hprod, hall⟩ := encBufFrom_eq_encUnits none us 0 [] s
  obtain ⟨rfl, hres⟩ := hall rfl
  rw [List.take_length] at henc hprod
  exact ⟨c, hc, hres, hsetup, henc, hprod⟩

/-- Settles O51: a call encodes the units it consumes as with room, so the cut is one of the fold. -/
theorem encoderSplittingDoesNotMatter : Obligations.EncoderSplittingDoesNotMatter := by
  intro s us cap
  obtain ⟨c, k, hc, hk, hcons, hsetup, henc, hprod, -⟩ := encBufFrom_eq_encUnits (some cap) us 0 [] s
  obtain rfl : c.consumed = k := by omega
  obtain ⟨d, hd, hdres, -, hdenc, hdprod⟩ := encStr_eq_encUnits (us.drop c.consumed) c.state
  obtain ⟨w, hw, hwres, -, hwenc, hwprod⟩ := encStr_eq_encUnits us s
  have hcfg : c.state.cfg = s.cfg := congrArg Setup.cfg hsetup
  have hsplit := encUnits_append s.cfg (us.take c.consumed) (us.drop c.consumed) s.enc
  rw [List.take_append_drop] at hsplit
  refine ⟨c, d, w, hc, hd, hw, hk, ?_, ?_, hwres, hdres⟩
  · rw [hwprod, hprod, hdprod, hcfg, henc, hsplit]
    rfl
  · rw [hwenc, hdenc, hcfg, henc, hsplit]

/-! ## `ENC_END` and `enc` (R192, R197) -/

/-- What an `ENC_FLUSH` with room puts out (R134). -/
def flushOut (c : Cfg) (e : EncState) : List Byte :=
  match e.mode with
  | .direct => []
  | .base64 => padChar c e ++ [c.unshift]

theorem length_flushOut_le (c : Cfg) (e : EncState) : (flushOut c e).length ≤ 2 := by
  unfold flushOut
  split
  · exact Nat.zero_le 2
  · exact length_padChar_append_le c e c.unshift

/-- In Direct mode a flush puts nothing out and leaves `E`, whatever the room (R134). -/
theorem encEnd_direct {s : State} (hmode : s.enc.mode = .direct) (cap : Nat) :
    ∃ e, encEnd cap s = .next e ∧ e.result = .underflow ∧ e.produced = [] ∧ e.state.enc = s.enc ∧
      e.state.encOut = s.encOut := by
  have hissue : issue .encFlush cap s = .next (finishEnc (.ok s.enc []) { s with encSpace := cap }) := by
    rw [issue_encFlush]
    exact exec_encFlush_of_end (encFlush_direct s.cfg cap hmode)
  exact ⟨_, by rw [encEnd, hissue], rfl, rfl, rfl, List.append_nil s.encOut⟩

theorem encEnd_keeps_setup {s : State} {cap : Nat} {e : Call Byte} (he : encEnd cap s = .next e) :
    e.state.setup = s.setup := by
  rw [encEnd, issue_encFlush, exec_encFlush] at he
  cases he
  obtain ⟨⟨-, hsetup, -⟩, -⟩ := finishEnc_frame (encFlush s.cfg s.enc cap) { s with encSpace := cap }
  exact hsetup

/-- An `ENC_END` that did not overflow leaves no run open (R192). -/
theorem direct_of_encEnd_underflow {s : State} {cap : Nat} {e : Call Byte} (he : encEnd cap s = .next e)
    (hres : e.result = .underflow) : e.state.enc.mode = .direct := by
  rw [encEnd, issue_encFlush, exec_encFlush] at he
  cases he
  cases hmode : s.enc.mode with
  | direct =>
    rw [encFlush_direct s.cfg cap hmode]
    exact hmode
  | base64 =>
    by_cases hn : cap < 2
    · rw [encFlush_overflow s.cfg hn hmode] at hres
      cases hres
    · rw [encFlush_open s.cfg (not_lt.1 hn) hmode]
      rfl

/-- With the room of `enc` an `ENC_END` puts out the flush (R135, R197). -/
theorem encEnd_eq_flushOut (s : State) :
    ∃ e, encEnd 2 s = .next e ∧ e.result = .underflow ∧ e.produced = flushOut s.cfg s.enc ∧
      e.state.setup = s.setup := by
  cases hmode : s.enc.mode with
  | direct =>
    obtain ⟨e, he, hres, hprod, -⟩ := encEnd_direct hmode 2
    exact ⟨e, he, hres, by simp only [hprod, flushOut, hmode], encEnd_keeps_setup he⟩
  | base64 =>
    obtain ⟨e, he, hres, hprod⟩ := encEnd_open hmode
    exact ⟨e, he, hres, by simp only [hprod, flushOut, hmode], encEnd_keeps_setup he⟩

/-- `enc` puts out the units from the just-constructed state, then the flush (R197). -/
theorem encAll_eq_encUnits (us : List CodeUnit) (s : State) :
    ∃ e, encAll us s = .next e ∧ e.result = .underflow ∧ e.state.setup = s.setup ∧
      e.produced =
        (encUnits s.cfg encInit us).2 ++ flushOut s.cfg (encUnits s.cfg encInit us).1 := by
  obtain ⟨s1, hreset, hsetup1, henc1⟩ := issue_encReset_next s
  obtain ⟨c, hc, -, hsetup, henc, hprod⟩ := encStr_eq_encUnits us s1
  obtain ⟨e, he, hres, hflush, hsetup'⟩ := encEnd_eq_flushOut c.state
  have hcfg1 : s1.cfg = s.cfg := congrArg Setup.cfg hsetup1
  have hcfg : c.state.cfg = s1.cfg := congrArg Setup.cfg hsetup
  rw [henc1, hcfg1] at henc hprod
  refine ⟨_, encAll_of_parts hreset hc he, hres, hsetup'.trans (hsetup.trans hsetup1), ?_⟩
  rw [hprod, hflush, henc, hcfg, hcfg1]

/-- Settles O50: in a stream the byte comes last, after what closes a run; alone nothing closes one. -/
theorem directCharactersEncodeToThemselves : Obligations.DirectCharactersEncodeToThemselves := by
  intro s c hd
  have hlt := lt_of_isDirect hd
  refine ⟨?_, fun n hn => ?_⟩
  · obtain ⟨e, he, hres, -, hprod⟩ := encAll_eq_encUnits [c] s
    have hput := encPut_direct s.cfg encInit c 4 (Nat.le_refl 4) hd
    rw [encDirect_of_direct s.cfg c rfl] at hput
    refine ⟨e, he, hres, ?_, by rw [lowByte_toNat]; omega⟩
    rw [hprod, encUnits, encUnits, encUnit_of_short hput (by simp)]
    rfl
  · have hput := encPut_direct s.cfg s.enc c n hn hd
    rw [issue_encPut]
    cases hmode : s.enc.mode with
    | direct =>
      rw [encDirect_of_direct s.cfg c hmode] at hput
      exact ⟨_, [], exec_encPut_of_end hput, rfl, rfl⟩
    | base64 =>
      rw [encDirect_of_base64 s.cfg c hmode] at hput
      exact ⟨_, _, exec_encPut_of_end hput, rfl, rfl⟩

end Sys2Proof.Machine
end

section
/-! The decoder's side of the call contract (spec/43_call_contract.md R194 to R202): what `DEC_STR` makes of a
stream as a scan of its bytes, and a call with any capacity as the start of that scan. -/

namespace Sys2Proof.Machine

/-! ## What the room decides of a `DEC_PUT` (R159) -/

/-- `x`, the end of a `DEC_PUT` with any room, is `y`, its end with room, or an `OVERFLOW`; and with room it
ends `OK` or `MALFORMED`. -/
def RoomDecides (x y : DecEnd) : Prop :=
  (x = y ∨ x = .fault .overflow) ∧ (y = .fault .malformed ∨ ∃ d out, y = .ok d out)

theorem roomDecides_ok (d : DecState) (out : Option CodeUnit) : RoomDecides (.ok d out) (.ok d out) :=
  ⟨.inl rfl, .inr ⟨d, out, rfl⟩⟩

theorem roomDecides_malformed : RoomDecides (.fault .malformed) (.fault .malformed) := ⟨.inl rfl, .inl rfl⟩

theorem putOut_roomDecides (d : DecState) (u : CodeUnit) (n : Nat) {m : Nat} (hm : 1 ≤ m) :
    RoomDecides (putOut d u n) (putOut d u m) := by
  rw [putOut_of_room d u hm]
  by_cases hn : 1 ≤ n
  · rw [putOut_of_room d u hn]
    exact roomDecides_ok d (some u)
  · exact ⟨.inr (putOut_of_no_room d u (not_le.1 hn)), .inr ⟨d, some u, rfl⟩⟩

theorem directByte_roomDecides (c : Cfg) (p : Params) (d : DecState) (b : Byte) (n : Nat) {m : Nat}
    (hm : 1 ≤ m) : RoomDecides (directByte c p d b n) (directByte c p d b m) := by
  by_cases hb : b = c.shift
  · subst hb
    rw [directByte_shift, directByte_shift]
    exact roomDecides_ok ..
  · rw [directByte_of_ne_shift hb, directByte_of_ne_shift hb]
    exact putOut_roomDecides _ _ n hm

theorem decChar_roomDecides (p : Params) (d : DecState) (v : Sextet) (n : Nat) {m : Nat} (hm : 1 ≤ m) :
    RoomDecides (decChar p d v n) (decChar p d v m) := by
  rw [decChar_of_room fun _ => hm]
  by_cases hn : 10 ≤ d.bits → 1 ≤ n
  · rw [decChar_of_room hn]
    exact roomDecides_ok ..
  · exact ⟨.inr (decChar_eq_overflow_iff.2 (by omega)), .inr ⟨_, _, rfl⟩⟩

theorem decUnshift_roomDecides (c : Cfg) (p : Params) (d : DecState) (n : Nat) {m : Nat} (hm : 1 ≤ m) :
    RoomDecides (decUnshift c p d n) (decUnshift c p d m) := by
  by_cases hempty : d.bits = 0 ∧ d.cnt = 0
  · rw [decUnshift_empty c p n hempty, decUnshift_empty c p m hempty]
    exact putOut_roomDecides _ _ n hm
  · cases hpad : padOk d with
    | true =>
      rw [decUnshift_closes c p n hempty hpad, decUnshift_closes c p m hempty hpad]
      exact roomDecides_ok ..
    | false =>
      rw [decUnshift_of_not_padOk c p n hempty hpad, decUnshift_of_not_padOk c p m hempty hpad]
      exact roomDecides_malformed

theorem decForeign_roomDecides (c : Cfg) (p : Params) (d : DecState) (b : Byte) (n : Nat) {m : Nat}
    (hm : 1 ≤ m) : RoomDecides (decForeign c p d b n) (decForeign c p d b m) := by
  by_cases h : ClosesImplicitly c d
  · rw [decForeign_closes h, decForeign_closes h]
    exact directByte_roomDecides c p _ b n hm
  · rw [decForeign_of_not_closes h, decForeign_of_not_closes h]
    exact roomDecides_malformed

/-- A place more or less decides whether a `DEC_PUT` overflows, and nothing else of it: class by class. -/
theorem decPut_roomDecides (u : Setup) (p : Params) (d : DecState) (b : Byte) (n : Nat) {m : Nat}
    (hm : 1 ≤ m) : RoomDecides (decPut u.cfg p d b n) (decPut u.cfg p d b m) := by
  have hclass := decPut_class u p d b n
  generalize hx : decPut u.cfg p d b n = x at hclass
  cases hclass with
  | high hb =>
    rw [decPut_high u.cfg p d b m hb]
    exact roomDecides_malformed
  | direct hb hmode =>
    rw [decPut_direct u.cfg p d b m hb hmode]
    exact directByte_roomDecides u.cfg p d b n hm
  | char hmode hv =>
    rw [decPut_char u.cfg p d b _ m hv hmode]
    exact decChar_roomDecides p d _ n hm
  | unshift hmode hb =>
    rw [hb, decPut_unshift u p d m hmode]
    exact decUnshift_roomDecides u.cfg p d n hm
  | foreign hb hmode hv hu =>
    rw [decPut_foreign u.cfg p d b m hb hmode hv hu]
    exact decForeign_roomDecides u.cfg p d b n hm

/-! ## The scan of a stream (R194) -/

/-- What a `DEC_STR` tells of a stream: the decoder it leaves, the code units put out, the bytes accepted, and
whether it met no malformed byte. -/
structure DecScan where
  state : DecState
  out : List CodeUnit
  count : Nat
  clean : Bool

/-- The result of the call that makes the scan (R194). -/
def DecScan.result (r : DecScan) : CallResult := if r.clean then .underflow else .malformed 1 r.count

theorem DecScan.result_eq_underflow_iff {r : DecScan} : r.result = .underflow ↔ r.clean = true := by
  unfold DecScan.result
  split_ifs with h
  · exact iff_of_true rfl h
  · exact iff_of_false nofun h

/-- The scan `r` after `n` more bytes have been accepted before it, with the code units `out`. -/
def DecScan.after (n : Nat) (out : List CodeUnit) (r : DecScan) : DecScan :=
  { r with out := out ++ r.out, count := n + r.count }

@[simp] theorem DecScan.after_zero (r : DecScan) : r.after 0 [] = r := by
  simp [DecScan.after]

theorem DecScan.after_after (n m : Nat) (out out' : List CodeUnit) (r : DecScan) :
    (r.after m out').after n out = r.after (n + m) (out ++ out') := by
  simp [DecScan.after, Nat.add_assoc]

/-- The scan of the bytes of a stream, each with room for its code unit. -/
def decScan (u : Setup) : DecState → List Byte → DecScan
  | d, [] => ⟨d, [], 0, true⟩
  | d, b :: bs =>
    match decPut u.cfg u.par d b 1 with
    | .ok d' out => (decScan u d' bs).after 1 out.toList
    | .fault st => ⟨decAfterFault st d, [], 0, false⟩

theorem decScan_cons_ok {u : Setup} {d d' : DecState} {b : Byte} {out : Option CodeUnit}
    (h : decPut u.cfg u.par d b 1 = .ok d' out) (bs : List Byte) :
    decScan u d (b :: bs) = (decScan u d' bs).after 1 out.toList := by
  simp only [decScan, h]

theorem decScan_cons_fault {u : Setup} {d : DecState} {b : Byte} {st : Status}
    (h : decPut u.cfg u.par d b 1 = .fault st) (bs : List Byte) :
    decScan u d (b :: bs) = ⟨decAfterFault st d, [], 0, false⟩ := by
  simp only [decScan, h]

/-- A byte puts out at most one code unit (R75). -/
theorem length_decScan_out_le (u : Setup) (d : DecState) (bs : List Byte) :
    (decScan u d bs).out.length ≤ bs.length := by
  induction bs generalizing d with
  | nil => exact Nat.le_refl 0
  | cons b bs ih =>
    cases hput : decPut u.cfg u.par d b 1 with
    | ok d' out =>
      have hone : out.toList.length ≤ 1 := by cases out <;> simp
      have hrest := ih d'
      rw [decScan_cons_ok hput]
      simp only [DecScan.after, List.length_append, List.length_cons]
      omega
    | fault st =>
      rw [decScan_cons_fault hput]
      exact Nat.zero_le _

/-! ## The loop of a call (R194) -/

theorem issue_decPut_of_end {b : Byte} {n : Nat} {s : State} {x : DecEnd}
    (h : decPut s.cfg s.par s.dec b n = x) :
    issue (.decPut b) n s = .next (finishDec x { s with decSpace := n }) := by
  rw [issue_decPut]
  exact exec_decPut_of_end h

section Loop

variable {cap : Option Nat} {b : Byte} {produced : List CodeUnit} {s : State}

theorem decBufFrom_cons_ok {d : DecState} {out : Option CodeUnit}
    (h : decPut s.cfg s.par s.dec b (roomLeft cap produced.length 1) = .ok d out) (bs : List Byte) (i : Nat) :
    ∃ t, t.setup = s.setup ∧ t.dec = d ∧
      decBufFrom cap (b :: bs) i produced s = decBufFrom cap bs (i + 1) (produced ++ out.toList) t := by
  refine ⟨finishDec (.ok d out) { s with decSpace := roomLeft cap produced.length 1 }, rfl, rfl, ?_⟩
  simp [decBufFrom, issue_decPut_of_end h]

theorem decBufFrom_cons_overflow
    (h : decPut s.cfg s.par s.dec b (roomLeft cap produced.length 1) = .fault .overflow) (bs : List Byte)
    (i : Nat) :
    ∃ t, t.setup = s.setup ∧ t.dec = s.dec ∧
      decBufFrom cap (b :: bs) i produced s = .next ⟨.overflow, i, produced, t⟩ := by
  refine ⟨finishDec (.fault .overflow) { s with decSpace := roomLeft cap produced.length 1 }, rfl, rfl, ?_⟩
  simp [decBufFrom, issue_decPut_of_end h]

theorem decBufFrom_cons_malformed
    (h : decPut s.cfg s.par s.dec b (roomLeft cap produced.length 1) = .fault .malformed) (bs : List Byte)
    (i : Nat) :
    ∃ t, t.setup = s.setup ∧ t.dec = decAfterFault .malformed s.dec ∧
      decBufFrom cap (b :: bs) i produced s = .next ⟨.malformed 1 i, i, produced, t⟩ := by
  refine ⟨finishDec (.fault .malformed) { s with decSpace := roomLeft cap produced.length 1 }, rfl, rfl, ?_⟩
  simp [decBufFrom, issue_decPut_of_end h]

end Loop

/-- How a call that has accepted `k` bytes and put out `out` stands to the scan of its stream: it met the
malformed byte where the scan does, or the scan goes on over the rest from where the call left the decoder. -/
inductive DecStop (u : Setup) (cap : Option Nat) (bs : List Byte) (i k : Nat) (d : DecState)
    (out : List CodeUnit) (d' : DecState) : CallResult → Prop
  | malformed (h : decScan u d bs = ⟨d', out, k, false⟩) :
    DecStop u cap bs i k d out d' (.malformed 1 (i + k))
  | goesOn {r : CallResult} (hr : cap ≠ none ∧ r = .overflow ∨ k = bs.length ∧ r = .underflow)
    (h : decScan u d bs = (decScan u d' (bs.drop k)).after k out) : DecStop u cap bs i k d out d' r

/-- One accepted byte before a call's bytes. -/
theorem DecStop.cons {u : Setup} {cap : Option Nat} {b : Byte} {bs : List Byte} {i k : Nat}
    {d d1 d' : DecState} {out : Option CodeUnit} {outs : List CodeUnit} {r : CallResult}
    (hput : decPut u.cfg u.par d b 1 = .ok d1 out) (h : DecStop u cap bs (i + 1) k d1 outs d' r) :
    DecStop u cap (b :: bs) i (k + 1) d (out.toList ++ outs) d' r := by
  cases h with
  | malformed h =>
    rw [Nat.add_right_comm, Nat.add_assoc]
    refine .malformed ?_
    rw [decScan_cons_ok hput, h, Nat.add_comm k]
    rfl
  | goesOn hr h =>
    refine .goesOn (hr.imp_right fun ⟨hk, hres⟩ => ⟨congrArg Nat.succ hk, hres⟩) ?_
    rw [decScan_cons_ok hput, h, DecScan.after_after, Nat.add_comm 1 k, List.drop_succ_cons]

/-- A call with any capacity goes through the scan of its bytes up to where it stops. -/
theorem decBufFrom_stops (cap : Option Nat) (bs : List Byte) :
    ∀ (i : Nat) (produced : List CodeUnit) (s : State), ∃ c k out,
      decBufFrom cap bs i produced s = .next c ∧ k ≤ bs.length ∧ c.consumed = i + k ∧
      c.produced = produced ++ out ∧ c.state.setup = s.setup ∧
      DecStop s.setup cap bs i k s.dec out c.state.dec c.result := by
  induction bs with
  | nil =>
    intro i produced s
    exact ⟨_, 0, [], rfl, Nat.le_refl 0, rfl, (List.append_nil produced).symm, rfl,
      .goesOn (.inr ⟨rfl, rfl⟩) rfl⟩
  | cons b bs ih =>
    intro i produced s
    obtain ⟨hany, hroom⟩ :=
      decPut_roomDecides s.setup s.par s.dec b (roomLeft cap produced.length 1) (Nat.le_refl 1)
    by_cases hover : decPut s.cfg s.par s.dec b (roomLeft cap produced.length 1) = .fault .overflow
    · obtain ⟨t, hsetup, hdec, hcall⟩ := decBufFrom_cons_overflow hover bs i
      have hcap : cap ≠ none := by
        rintro rfl
        obtain h | ⟨d, out, h⟩ := hroom <;> cases h.symm.trans hover
      refine ⟨_, 0, [], hcall, Nat.zero_le _, rfl, (List.append_nil produced).symm, hsetup,
        .goesOn (.inl ⟨hcap, rfl⟩) ?_⟩
      rw [hdec, DecScan.after_zero, List.drop_zero]
    · have hput := hany.resolve_right hover
      obtain hmal | ⟨d, out, hok⟩ := hroom
      · obtain ⟨t, hsetup, hdec, hcall⟩ := decBufFrom_cons_malformed (hput.trans hmal) bs i
        refine ⟨_, 0, [], hcall, Nat.zero_le _, rfl, (List.append_nil produced).symm, hsetup, .malformed ?_⟩
        rw [hdec, decScan_cons_fault hmal]
      · obtain ⟨t, hsetup, hdec, hcall⟩ := decBufFrom_cons_ok (hput.trans hok) bs i
        obtain ⟨c, k, outs, hc, hk, hcons, hprod, hsetup', hstop⟩ := ih (i + 1) (produced ++ out.toList) t
        rw [hsetup, hdec] at hstop
        refine ⟨c, k + 1, out.toList ++ outs, hcall.trans hc, ?_, ?_, ?_, hsetup'.trans hsetup,
          DecStop.cons hok hstop⟩
        · exact Nat.succ_le_succ hk
        · omega
        · rw [hprod, List.append_assoc]

/-- `DEC_STR` answers the scan of its bytes (R87, R194). -/
theorem decStr_eq_decScan (bs : List Byte) (s : State) :
    ∃ c, decStr bs s = .next c ∧ c.result = (decScan s.setup s.dec bs).result ∧
      c.state.dec = (decScan s.setup s.dec bs).state ∧ c.produced = (decScan s.setup s.dec bs).out ∧
      c.consumed = (decScan s.setup s.dec bs).count := by
  obtain ⟨c, k, out, hc, -, hcons, hprod, -, hstop⟩ := decBufFrom_stops none bs 0 [] s
  rw [Nat.zero_add] at hcons
  rw [List.nil_append] at hprod
  refine ⟨c, hc, ?_⟩
  generalize c.result = r at hstop
  cases hstop with
  | malformed h =>
    rw [h, Nat.zero_add]
    exact ⟨rfl, rfl, hprod, hcons⟩
  | goesOn hr h =>
    obtain ⟨hcap, -⟩ | ⟨hk, rfl⟩ := hr
    · exact absurd rfl hcap
    · rw [h, hk, List.drop_length]
      exact ⟨rfl, rfl, hprod.trans (List.append_nil out).symm, hcons.trans hk⟩

/-- Settles O52: the call is the start of the scan that the whole `DEC_STR` answers. -/
theorem decoderChunkSizeDoesNotMatter : Obligations.DecoderChunkSizeDoesNotMatter := by
  intro s bs cap _
  obtain ⟨c, k, out, hc, hk, hcons, hprod, hsetup, hstop⟩ := decBufFrom_stops (some cap) bs 0 [] s
  obtain ⟨w, hw, hwres, hwdec, hwprod, hwcons⟩ := decStr_eq_decScan bs s
  rw [Nat.zero_add] at hcons
  rw [List.nil_append] at hprod
  refine ⟨c, w, hc, hw, hcons ▸ hk, ?_⟩
  generalize c.result = r at hstop
  cases hstop with
  | malformed h =>
    rw [h] at hwres hwdec hwprod hwcons
    refine ⟨nofun, fun len pos hpos => ⟨?_, hwprod.trans hprod.symm, hwcons.trans hcons.symm, hwdec⟩⟩
    rw [hwres, ← hpos, Nat.zero_add]
    rfl
  | goesOn hr h =>
    obtain ⟨d, hd, hdres, hddec, hdprod, hdcons⟩ := decStr_eq_decScan (bs.drop c.consumed) c.state
    rw [hsetup, hcons] at hdres hddec hdprod hdcons
    rw [h] at hwres hwdec hwprod hwcons
    refine ⟨fun _ => ⟨d, hd, ?_, ?_, hwdec.trans hddec.symm, ?_⟩, ?_⟩
    · rw [hwprod, hdprod, hprod]
      rfl
    · rw [hwcons, hdcons, hcons]
      rfl
    · rw [hwres, hdres, DecScan.result_eq_underflow_iff, DecScan.result_eq_underflow_iff]
      rfl
    · rintro len pos rfl
      obtain ⟨-, h⟩ | ⟨-, h⟩ := hr <;> cases h

/-! ## `DEC_END` and `dec` (R195, R197) -/

theorem decEnd_direct {s : State} (hmode : s.dec.mode = .direct) :
    ∃ e, decEnd s = .next e ∧ e.result = .underflow ∧ e.produced = [] ∧ e.state.dec = s.dec ∧
      e.state.decOut = s.decOut := by
  have hissue : issue .decFlush 1 s = .next (finishDec (.ok s.dec none) { s with decSpace := 1 }) := by
    rw [issue_decFlush]
    exact exec_decFlush_of_end (decFlush_direct hmode)
  exact ⟨_, by rw [decEnd, hissue], rfl, rfl, rfl, List.append_nil s.decOut⟩

/-- `DEC_END` puts out no code unit (R176, R177). -/
theorem decEnd_produced (s : State) : ∃ e, decEnd s = .next e ∧ e.produced = [] := by
  cases hmode : s.dec.mode with
  | direct =>
    obtain ⟨e, he, -, hprod, -⟩ := decEnd_direct hmode
    exact ⟨e, he, hprod⟩
  | base64 =>
    have hissue : issue .decFlush 1 s = .next (finishDec (.fault .malformed) { s with decSpace := 1 }) := by
      rw [issue_decFlush]
      exact exec_decFlush_of_end (decFlush_base64 hmode)
    exact ⟨_, by rw [decEnd, hissue], rfl⟩

theorem issue_decReset_next (s : State) :
    ∃ t, issue .decReset 1 s = .next t ∧ t.setup = s.setup ∧ t.dec = decInit := ⟨_, rfl, rfl, rfl⟩

/-- The parts of `dec(t)` put together when `DEC_STR` met no malformed byte (R197). -/
theorem decAll_of_underflow {bs : List Byte} {s s1 : State} {c e : Call CodeUnit}
    (hreset : issue .decReset 1 s = .next s1) (hstr : decStr bs s1 = .next c) (hres : c.result = .underflow)
    (hend : decEnd c.state = .next e) :
    decAll bs s = .next ⟨e.result, c.consumed, c.produced ++ e.produced, e.state⟩ := by
  simp only [decAll, hreset, hstr, hres, hend, if_true]

/-- At a malformed byte `dec(t)` ends with what `DEC_STR` tells (R197). -/
theorem decAll_of_not_underflow {bs : List Byte} {s s1 : State} {c : Call CodeUnit}
    (hreset : issue .decReset 1 s = .next s1) (hstr : decStr bs s1 = .next c)
    (hres : c.result ≠ .underflow) : decAll bs s = .next c := by
  simp only [decAll, hreset, hstr, hres, if_false]

/-- `dec` puts out the code units of the scan from the just-constructed state. -/
theorem decAll_produced (bs : List Byte) (s : State) :
    ∃ d, decAll bs s = .next d ∧ d.produced = (decScan s.setup decInit bs).out := by
  obtain ⟨s1, hreset, hsetup1, hdec1⟩ := issue_decReset_next s
  obtain ⟨c, hc, -, -, hprod, -⟩ := decStr_eq_decScan bs s1
  rw [hsetup1, hdec1] at hprod
  by_cases hres : c.result = .underflow
  · obtain ⟨e, he, hnone⟩ := decEnd_produced c.state
    exact ⟨_, decAll_of_underflow hreset hc hres he, by simp only [hnone, List.append_nil, hprod]⟩
  · exact ⟨c, decAll_of_not_underflow hreset hc hres, hprod⟩

/-- `dec` ends in `Underflow` when the scan meets no malformed byte and leaves no run open. -/
theorem decAll_underflow {bs : List Byte} {s : State} (hclean : (decScan s.setup decInit bs).clean = true)
    (hmode : (decScan s.setup decInit bs).state.mode = .direct) :
    ∃ d, decAll bs s = .next d ∧ d.result = .underflow ∧
      d.produced = (decScan s.setup decInit bs).out := by
  obtain ⟨s1, hreset, hsetup1, hdec1⟩ := issue_decReset_next s
  obtain ⟨c, hc, hres, hdec, hprod, -⟩ := decStr_eq_decScan bs s1
  rw [hsetup1, hdec1] at hres hdec hprod
  rw [DecScan.result_eq_underflow_iff.2 hclean] at hres
  obtain ⟨e, he, heres, hnone, -⟩ := decEnd_direct (hdec ▸ hmode)
  exact ⟨_, decAll_of_underflow hreset hc hres he, heres, by simp only [hnone, List.append_nil, hprod]⟩

/-- Settles O49: `ENC_END` with `Underflow` leaves Direct mode, and a flush in Direct mode puts nothing out and
leaves its unit. -/
theorem flushIsIdempotent : Obligations.FlushIsIdempotent :=
  ⟨fun _ _ _ he hres => encEnd_direct (direct_of_encEnd_underflow he hres), fun _ => decEnd_direct⟩

/-- Settles O53: three bytes for a unit and two for the flush; one code unit for a byte. -/
theorem streamSizesAreBounded : Obligations.StreamSizesAreBounded := by
  refine ⟨fun s us => ?_, fun s bs => ?_⟩
  · obtain ⟨e, he, -, -, hprod⟩ := encAll_eq_encUnits us s
    have hunits := length_encUnits_le s.cfg encInit us
    have hflush := length_flushOut_le s.cfg (encUnits s.cfg encInit us).1
    refine ⟨e, he, ?_⟩
    rw [hprod, List.length_append]
    omega
  · obtain ⟨d, hd, hprod⟩ := decAll_produced bs s
    exact ⟨d, hd, hprod ▸ length_decScan_out_le s.setup decInit bs⟩

end Sys2Proof.Machine
end

section
/-! The round trip of the call contract (spec/43_call_contract.md R198), by a simulation of the encoder by the
decoder that reads its bytes. Inside a run the decoder is behind by at most one code unit, which the bits it
buffers and the bits pending in `E` make up together; `InStep` says so. -/

namespace Sys2Proof.Machine

/-- A direct code unit is its low byte (R125). -/
theorem unitOfByte_lowByte {c : Cfg} {cu : CodeUnit} (hd : isDirect c cu = true) :
    unitOfByte (lowByte cu) = cu := by
  apply BitVec.eq_of_toNat_eq
  have := lt_of_isDirect hd
  rw [unitOfByte_toNat, lowByte_toNat]
  omega

/-! ## Bytes the decoder accepts -/

/-- From `d` the decoder accepts all of `bs`, puts out `out` and comes to `d'`, whatever follows. -/
def DecReads (u : Setup) (d : DecState) (bs : List Byte) (out : List CodeUnit) (d' : DecState) : Prop :=
  ∀ rest, decScan u d (bs ++ rest) = (decScan u d' rest).after bs.length out

section Reads

variable {u : Setup} {d d' d'' : DecState} {bs bs' : List Byte} {out out' : List CodeUnit}

theorem DecReads.nil : DecReads u d [] [] d := fun rest => (DecScan.after_zero (decScan u d rest)).symm

theorem DecReads.append (h : DecReads u d bs out d') (h' : DecReads u d' bs' out' d'') :
    DecReads u d (bs ++ bs') (out ++ out') d'' := by
  intro rest
  rw [List.append_assoc, h, h', DecScan.after_after, List.length_append]

theorem decReads_of_ok {b : Byte} {o : Option CodeUnit} (h : decPut u.cfg u.par d b 1 = .ok d' o) :
    DecReads u d [b] o.toList d' := decScan_cons_ok h

/-- The scan of bytes that are all accepted. -/
theorem DecReads.scan (h : DecReads u d bs out d') : decScan u d bs = ⟨d', out, bs.length, true⟩ := by
  simpa [decScan, DecScan.after] using h []

end Reads

/-! ## What the decoder makes of each kind of byte -/

/-- `D` inside a run, with `n` bits buffered that are the number `x` (R40, R41). -/
structure Holds (d : DecState) (n x : Nat) : Prop where
  mode : d.mode = .base64
  bits : d.bits = n
  acc : d.acc.toNat = x

/-- `D` inside a run that may end: a code unit drained, and a legal leftover (R161). -/
structure Closable (d : DecState) : Prop where
  mode : d.mode = .base64
  cnt : d.cnt ≠ 0
  pad : padOk d = true

/-- A leftover of zero bits after a code unit is a legal one. -/
theorem Holds.closable {d : DecState} {n : Nat} (h : Holds d n 0) (hn : n = 0 ∨ n = 2 ∨ n = 4)
    (hcnt : d.cnt ≠ 0) : Closable d :=
  ⟨h.mode, hcnt, padOk_iff.2 ⟨h.bits ▸ hn, BitVec.eq_of_toNat_eq h.acc⟩⟩

section Bytes

variable {u : Setup} {d : DecState}

theorem decReads_char (hmode : d.mode = .base64) (v : Sextet) :
    DecReads u d [charOf u.cfg v] (unpack d.bits d.acc v).unit.toList (accept u.par (absorb u.par d v)) := by
  refine decReads_of_ok ((decPut_char u.cfg u.par d _ v 1 (valueOf_charOf u v) hmode).trans ?_)
  exact decChar_of_room fun _ => Nat.le_refl 1

/-- A character below ten buffered bits: six bits more (R160). -/
theorem decReads_short {n x y : Nat} (h : Holds d n x) (hn : n < 10) (v : Sextet)
    (hy : x * 64 + v.toNat = y) (hlt : y < 2 ^ 16) :
    ∃ d', DecReads u d [charOf u.cfg v] [] d' ∧ Holds d' (n + 6) y := by
  obtain ⟨hmode, rfl, rfl⟩ := h
  have hread := decReads_char (u := u) hmode v
  rw [unpack_short _ _ _ hn] at hread
  refine ⟨_, hread, hmode, ?_, ?_⟩
  · exact congrArg DecState.bits (absorb_short u.par v hn)
  · rw [absorb_short u.par v hn, ← hy]
    exact (BitVec.toNat_ofNat ..).trans (Nat.mod_eq_of_lt (hy ▸ hlt))

/-- A character with ten or more buffered bits drains the code unit `cu` and leaves the `k` bits `y` (R160). -/
theorem decReads_full {k x y : Nat} (h : Holds d (k + 10) x) (cu : CodeUnit) (v : Sextet)
    (hsplit : x * 64 + v.toNat = 2 ^ k * cu.toNat + y) (hy : y < 2 ^ k) (hlt : y < 2 ^ 16) :
    ∃ d', DecReads u d [charOf u.cfg v] [cu] d' ∧ Holds d' k y ∧ d'.cnt ≠ 0 := by
  obtain ⟨hmode, hbits, rfl⟩ := h
  have hfull : 10 ≤ d.bits := by omega
  have hk : d.bits - 10 = k := by omega
  obtain ⟨-, hparams⟩ := setup_wf u
  have hread := decReads_char (u := u) hmode v
  have hdiv : (d.acc.toNat * 64 + v.toNat) / 2 ^ k = cu.toNat := by
    rw [hsplit, Nat.mul_add_div (Nat.two_pow_pos k), Nat.div_eq_of_lt hy, Nat.add_zero]
  have hmod : (d.acc.toNat * 64 + v.toNat) % 2 ^ k = y := by
    rw [hsplit, Nat.mul_add_mod, Nat.mod_eq_of_lt hy]
  rw [unpack_full _ _ _ hfull, absorb_full u.par v hfull, hk, hdiv, hmod, BitVec.ofNat_toNat,
    BitVec.setWidth_eq] at hread
  exact ⟨_, hread, ⟨hmode, rfl, (BitVec.toNat_ofNat ..).trans (Nat.mod_eq_of_lt hlt)⟩,
    (cntNext_pos hparams.1 d.cnt).ne'⟩

theorem decReads_shift (hmode : d.mode = .direct) :
    DecReads u d [u.cfg.shift] [] (accept u.par (openRun d)) := by
  refine decReads_of_ok (o := none) ((decPut_direct u.cfg u.par d _ 1 (shift_lt u) hmode).trans ?_)
  exact directByte_shift ..

/-- A direct byte in Direct mode, or where a foreign byte closes the run (R156, R166). -/
theorem decReads_directByte {r : DecState} {cu : CodeUnit} (hd : isDirect u.cfg cu = true)
    (hput : decPut u.cfg u.par d (lowByte cu) 1 = directByte u.cfg u.par r (lowByte cu) 1) :
    DecReads u d [lowByte cu] [cu] (accept u.par r) := by
  have hbyte := unitOfByte_lowByte hd
  have hshift : lowByte cu ≠ u.cfg.shift := by
    intro h
    rw [← hbyte, h, isDirect_shift] at hd
    cases hd
  rw [directByte_of_ne_shift hshift, putOut_of_room _ _ (Nat.le_refl 1), hbyte] at hput
  exact decReads_of_ok hput

theorem decReads_direct {cu : CodeUnit} (hd : isDirect u.cfg cu = true) (hmode : d.mode = .direct) :
    DecReads u d [lowByte cu] [cu] (accept u.par d) :=
  decReads_directByte hd (decPut_direct u.cfg u.par d _ 1 (lowByte_lt_of_isDirect hd) hmode)

/-- The unshift byte after a code unit closes the run (R162). -/
theorem decReads_unshift (h : Closable d) : DecReads u d [u.cfg.unshift] [] (accept u.par (closeRun d)) := by
  refine decReads_of_ok (o := none) ((decPut_unshift u u.par d 1 h.mode).trans ?_)
  exact decUnshift_closes u.cfg u.par 1 (fun hempty => h.cnt hempty.2) h.pad

/-- A direct byte for which the encoder needs no unshift byte closes the run implicitly (R126, R166). -/
theorem decReads_foreign (h : Closable d) {cu : CodeUnit} (hd : isDirect u.cfg cu = true)
    (hneed : needUnshift u.cfg cu ≠ true) :
    DecReads u d [lowByte cu] [cu] (accept u.par (closeRun d)) := by
  rw [Ne, needUnshift_iff, not_or, not_or, contains_iff, not_not] at hneed
  obtain ⟨hstrict, hvalue, hunshift⟩ := hneed
  have hne : lowByte cu ≠ u.cfg.unshift := fun heq => hunshift (heq ▸ (unitOfByte_lowByte hd).symm)
  refine decReads_directByte hd
    ((decPut_foreign u.cfg u.par d _ 1 (lowByte_lt_of_isDirect hd) h.mode hvalue hne).trans ?_)
  exact decForeign_closes ⟨eq_false_of_ne_true hstrict, h.cnt, h.pad⟩ u.par _ 1

/-- The unshift byte right after the shift byte is the shift character (R127, R163). -/
theorem decReads_shift_unshift (hmode : d.mode = .direct) :
    ∃ d', DecReads u d [u.cfg.shift, u.cfg.unshift] [unitOfByte u.cfg.shift] d' ∧ d'.mode = .direct := by
  have hopen := decReads_shift (u := u) hmode
  have hclose : decPut u.cfg u.par (accept u.par (openRun d)) u.cfg.unshift 1 = .ok _ _ :=
    (decPut_unshift u u.par _ 1 rfl).trans
      ((decUnshift_empty u.cfg u.par 1 ⟨rfl, rfl⟩).trans (putOut_of_room _ _ (Nat.le_refl 1)))
  exact ⟨_, hopen.append (decReads_of_ok hclose), rfl⟩

end Bytes

/-! ## The two units in step -/

/-- `D` has read what `E` put out, and is behind by the code units of the list. -/
inductive InStep : EncState → DecState → List CodeUnit → Prop
  /-- No run is open. -/
  | direct {d : DecState} (hmode : d.mode = .direct) : InStep encInit d []
  /-- A run is open and no bits are pending: `D` has drained every code unit. -/
  | level {d : DecState} (hd : Holds d 0 0) (hcnt : d.cnt ≠ 0) : InStep ⟨.base64, 0, 0#6⟩ d []
  /-- `p` bits of the run's latest code unit are pending, and `D` buffers the bits above them. -/
  | behind {p : Nat} {a : Sextet} {d : DecState} {cu : CodeUnit} (hp : p = 2 ∨ p = 4)
    (ha : a.toNat = cu.toNat % 2 ^ p * 2 ^ (6 - p)) (hd : Holds d (16 - p) (cu.toNat / 2 ^ p)) :
    InStep ⟨.base64, p, a⟩ d [cu]

/-- `E` in step with a decoder satisfies its invariant. -/
theorem InStep.encInv {e : EncState} {d : DecState} {lag : List CodeUnit} (h : InStep e d lag) :
    EncInv e := by
  cases h with
  | direct => exact encInv_of_empty .direct
  | level => exact encInv_of_empty .base64
  | behind hp ha => exact ⟨.inr hp, by rw [ha]; exact Nat.mul_mod_left .., nofun⟩

section Step

variable {u : Setup} {e : EncState} {d : DecState} {lag : List CodeUnit}

theorem InStep.of_direct (h : InStep e d lag) (hmode : e.mode = .direct) :
    e = encInit ∧ d.mode = .direct ∧ lag = [] := by
  cases h with
  | direct hd => exact ⟨rfl, hd, rfl⟩
  | level => cases hmode
  | behind => cases hmode

/-- The padding character brings the decoder level, inside a run that may end. -/
theorem InStep.reads_padChar (h : InStep e d lag) (hmode : e.mode = .base64) :
    ∃ d', DecReads u d (padChar u.cfg e) lag d' ∧ Closable d' := by
  cases h with
  | direct => cases hmode
  | level hd hcnt => exact ⟨d, DecReads.nil, hd.closable (.inl rfl) hcnt⟩
  | @behind p a d cu hp ha hd =>
    have hbits : 16 - p = (6 - p) + 10 := by omega
    have hsplit : cu.toNat / 2 ^ p * 64 + a.toNat = 2 ^ (6 - p) * cu.toNat + 0 := by
      rw [ha]
      obtain rfl | rfl := hp <;> omega
    have hle : 2 ^ (6 - p) ≤ 2 ^ 16 := Nat.pow_le_pow_right (by decide) (by omega)
    obtain ⟨d', hread, hd', hcnt⟩ := decReads_full (u := u) (hbits ▸ hd) cu a hsplit (Nat.two_pow_pos _)
      (by decide)
    have hpad : padChar u.cfg ⟨.base64, p, a⟩ = [charOf u.cfg a] := if_pos (by show p ≠ 0; omega)
    exact ⟨d', hpad ▸ hread, hd'.closable (by omega) hcnt⟩

/-- What a direct code unit puts out to close a run (R125) is read back, with the unshift byte and without. -/
theorem InStep.reads_closingOut (h : InStep e d lag) (hmode : e.mode = .base64) {cu : CodeUnit}
    (hd : isDirect u.cfg cu = true) :
    ∃ d', DecReads u d (closingOut u.cfg e cu) (lag ++ [cu]) d' ∧ d'.mode = .direct := by
  obtain ⟨d1, hpad, hclosable⟩ := h.reads_padChar (u := u) hmode
  by_cases hneed : needUnshift u.cfg cu = true
  · have hread := (hpad.append (decReads_unshift hclosable)).append (decReads_direct hd rfl)
    rw [List.append_nil] at hread
    exact ⟨_, by rwa [closingOut, if_pos hneed], rfl⟩
  · have hread := hpad.append (decReads_foreign hclosable hd hneed)
    exact ⟨_, by rwa [closingOut, if_neg hneed, List.append_nil], rfl⟩

/-- The flush is read back and leaves no run open (R134). -/
theorem InStep.reads_flushOut (h : InStep e d lag) :
    ∃ d', DecReads u d (flushOut u.cfg e) lag d' ∧ d'.mode = .direct := by
  cases hmode : e.mode with
  | direct =>
    obtain ⟨rfl, hd, rfl⟩ := h.of_direct hmode
    exact ⟨d, DecReads.nil, hd⟩
  | base64 =>
    obtain ⟨d1, hpad, hclosable⟩ := h.reads_padChar (u := u) hmode
    have hread := hpad.append (decReads_unshift hclosable)
    rw [List.append_nil] at hread
    exact ⟨_, by simpa only [flushOut, hmode] using hread, rfl⟩

end Step

/-! ## A packed code unit (R128, R130) -/

/-- The bytes `bs` of an encoder that comes to `e`, encoding `cus`, are read from `d`, where the decoder was
behind by `lag`: it puts out what it was behind by and the code units, except what it is behind by now. -/
def Follows (u : Setup) (d : DecState) (lag : List CodeUnit) (bs : List Byte) (cus : List CodeUnit)
    (e : EncState) : Prop :=
  ∃ d' out lag', DecReads u d bs out d' ∧ InStep e d' lag' ∧ out ++ lag' = lag ++ cus

theorem extractLsb'_toNat_eq {w : Nat} (x : BitVec w) (i n : Nat) :
    (x.extractLsb' i n).toNat = x.toNat / 2 ^ i % 2 ^ n := by
  rw [BitVec.extractLsb'_toNat, Nat.shiftRight_eq_div_pow]

theorem four_append_two_toNat (x : BitVec 4) (y : BitVec 2) :
    BitVec.toNat (w := 6) (x ++ y) = x.toNat * 4 + y.toNat := sextet_append_toNat rfl x y

theorem two_append_four_toNat (x : BitVec 2) (y : BitVec 4) :
    BitVec.toNat (w := 6) (x ++ y) = x.toNat * 16 + y.toNat := sextet_append_toNat rfl x y

section Packed

variable {u : Setup} {d : DecState}

/-- A code unit at the start of a sextet: two characters, and four of its bits stay pending. -/
theorem follows_zero (h : Holds d 0 0) (cu : CodeUnit) :
    Follows u d [] [charOf u.cfg (cu.extractLsb' 10 6), charOf u.cfg (cu.extractLsb' 4 6)] [cu]
      ⟨.base64, 4, cu.extractLsb' 0 4 ++ 0#2⟩ := by
  have hcu : cu.toNat < 65536 := cu.isLt
  obtain ⟨d1, hread1, h1⟩ := decReads_short (u := u) (y := cu.toNat / 1024) h (by decide)
    (cu.extractLsb' 10 6) (by rw [extractLsb'_toNat_eq]; omega) (by omega)
  obtain ⟨d2, hread2, h2⟩ := decReads_short (u := u) (y := cu.toNat / 16) h1 (by decide)
    (cu.extractLsb' 4 6) (by rw [extractLsb'_toNat_eq]; omega) (by omega)
  refine ⟨d2, [], [cu], hread1.append hread2, .behind (.inr rfl) ?_ h2, rfl⟩
  rw [four_append_two_toNat, extractLsb'_toNat_eq, Nat.pow_zero, Nat.div_one]
  rfl

variable {lag : CodeUnit} {a : Sextet}

/-- A code unit after four pending bits: the first character drains the code unit before, and two bits stay
pending. -/
theorem follows_four (h : Holds d 12 (lag.toNat / 16)) (ha : a.toNat = lag.toNat % 16 * 4) (cu : CodeUnit) :
    Follows u d [lag]
      [charOf u.cfg (a.extractLsb' 2 4 ++ cu.extractLsb' 14 2), charOf u.cfg (cu.extractLsb' 8 6),
        charOf u.cfg (cu.extractLsb' 2 6)] [cu]
      ⟨.base64, 2, cu.extractLsb' 0 2 ++ 0#4⟩ := by
  have hcu : cu.toNat < 65536 := cu.isLt
  obtain ⟨d1, hread1, h1, -⟩ := decReads_full (u := u) (k := 2) (y := cu.toNat / 16384) h lag
    (a.extractLsb' 2 4 ++ cu.extractLsb' 14 2)
    (by rw [four_append_two_toNat, extractLsb'_toNat_eq, extractLsb'_toNat_eq, ha]; omega) (by omega) (by omega)
  obtain ⟨d2, hread2, h2⟩ := decReads_short (u := u) (y := cu.toNat / 256) h1 (by decide)
    (cu.extractLsb' 8 6) (by rw [extractLsb'_toNat_eq]; omega) (by omega)
  obtain ⟨d3, hread3, h3⟩ := decReads_short (u := u) (y := cu.toNat / 4) h2 (by decide)
    (cu.extractLsb' 2 6) (by rw [extractLsb'_toNat_eq]; omega) (by omega)
  refine ⟨d3, [lag], [cu], (hread1.append hread2).append hread3, .behind (.inl rfl) ?_ h3, rfl⟩
  rw [two_append_four_toNat, extractLsb'_toNat_eq, Nat.pow_zero, Nat.div_one]
  rfl

/-- A code unit after two pending bits: the first character drains the code unit before, the last this one, and
nothing stays pending. -/
theorem follows_two (h : Holds d 14 (lag.toNat / 4)) (ha : a.toNat = lag.toNat % 4 * 16) (cu : CodeUnit) :
    Follows u d [lag]
      [charOf u.cfg (a.extractLsb' 4 2 ++ cu.extractLsb' 12 4), charOf u.cfg (cu.extractLsb' 6 6),
        charOf u.cfg (cu.extractLsb' 0 6)] [cu] ⟨.base64, 0, 0#6⟩ := by
  have hcu : cu.toNat < 65536 := cu.isLt
  obtain ⟨d1, hread1, h1, -⟩ := decReads_full (u := u) (k := 4) (y := cu.toNat / 4096) h lag
    (a.extractLsb' 4 2 ++ cu.extractLsb' 12 4)
    (by rw [two_append_four_toNat, extractLsb'_toNat_eq, extractLsb'_toNat_eq, ha]; omega) (by omega) (by omega)
  obtain ⟨d2, hread2, h2⟩ := decReads_short (u := u) (y := cu.toNat / 64) h1 (by decide)
    (cu.extractLsb' 6 6) (by rw [extractLsb'_toNat_eq]; omega) (by omega)
  obtain ⟨d3, hread3, h3, hcnt⟩ := decReads_full (u := u) (k := 0) (y := 0) h2 cu
    (cu.extractLsb' 0 6) (by rw [extractLsb'_toNat_eq]; omega) (by omega) (by omega)
  exact ⟨d3, [lag, cu], [], (hread1.append hread2).append hread3, .level h3 hcnt, rfl⟩

end Packed

section Simulation

variable {u : Setup} {e e' : EncState} {d d' : DecState} {lag : List CodeUnit}

/-- A code unit that is packed is followed: entering a run, or by the number of bits pending in it. -/
theorem InStep.follows_packed (h : InStep e d lag) (cu : CodeUnit) :
    Follows u d lag (packedOut u.cfg e cu) [cu] (packedState e cu) := by
  have hinv := h.encInv
  cases h with
  | direct hmode =>
    obtain ⟨d', out, lag', hread, hstep, hlist⟩ :=
      follows_zero (u := u) (d := accept u.par (openRun d)) ⟨rfl, rfl, rfl⟩ cu
    rw [packedState_zero cu hinv rfl, packedOut_zero u.cfg cu hinv rfl]
    exact ⟨d', out, lag', (decReads_shift hmode).append hread, hstep, hlist⟩
  | level hd =>
    rw [packedState_zero cu hinv rfl, packedOut_zero u.cfg cu hinv rfl]
    exact follows_zero hd cu
  | behind hp ha hd =>
    obtain rfl | rfl := hp
    · rw [packedState_two cu rfl, packedOut_two u.cfg cu rfl]
      exact follows_two hd ha cu
    · rw [packedState_four cu rfl, packedOut_four u.cfg cu rfl]
      exact follows_four hd ha cu

/-- Bytes after which no run is open and that are read back at once are followed. -/
theorem follows_of_reads {bs : List Byte} {cu : CodeUnit} (hread : DecReads u d bs (lag ++ [cu]) d')
    (hmode : d'.mode = .direct) : Follows u d lag bs [cu] encInit :=
  ⟨d', lag ++ [cu], [], hread, .direct hmode, List.append_nil _⟩

/-- What an `ENC_PUT` puts out is followed, in each of the classes of R120. -/
theorem InStep.follows_encUnit (h : InStep e d lag) (cu : CodeUnit) :
    Follows u d lag (encUnit u.cfg e cu).2 [cu] (encUnit u.cfg e cu).1 := by
  have hend := encPut_cases u.cfg e cu 4
  generalize hput : encPut u.cfg e cu 4 = x at hend
  cases hend with
  | overflow hn => exact absurd hn (lt_irrefl 4)
  | direct _ hd hmode =>
    rw [encUnit_of_short hput (by simp)]
    obtain ⟨rfl, hdmode, rfl⟩ := h.of_direct hmode
    exact follows_of_reads (decReads_direct hd hdmode) hdmode
  | closed _ hd hmode =>
    rw [encUnit_of_short hput (length_closingOut_le ..)]
    obtain ⟨d', hread, hdmode⟩ := h.reads_closingOut hmode hd
    exact follows_of_reads hread hdmode
  | shift _ _ hshift hmode =>
    rw [encUnit_of_short hput (by simp)]
    obtain ⟨rfl, hdmode, rfl⟩ := h.of_direct hmode
    obtain ⟨d', hread, hdmode'⟩ := decReads_shift_unshift (u := u) hdmode
    exact follows_of_reads (hshift ▸ hread) hdmode'
  | packed =>
    rw [encUnit_of_short hput (length_packedOut_le h.encInv ..)]
    exact h.follows_packed cu

/-- The code units of a stream are followed one by one. -/
theorem InStep.follows_encUnits (us : List CodeUnit) (h : InStep e d lag) :
    Follows u d lag (encUnits u.cfg e us).2 us (encUnits u.cfg e us).1 := by
  induction us generalizing e d lag with
  | nil => exact ⟨d, [], lag, DecReads.nil, h, (List.append_nil lag).symm⟩
  | cons cu us ih =>
    obtain ⟨d1, out1, lag1, hread1, hstep1, hlist1⟩ := h.follows_encUnit (u := u) cu
    obtain ⟨d2, out2, lag2, hread2, hstep2, hlist2⟩ := ih hstep1
    refine ⟨d2, out1 ++ out2, lag2, hread1.append hread2, hstep2, ?_⟩
    calc out1 ++ out2 ++ lag2 = out1 ++ (lag1 ++ us) := by rw [List.append_assoc, hlist2]
      _ = lag ++ [cu] ++ us := by rw [← List.append_assoc, hlist1]
      _ = lag ++ cu :: us := List.append_assoc ..

end Simulation

/-- The decoder reads a whole encoded stream back, from the just-constructed state to Direct mode. -/
theorem decReads_encoded (u : Setup) (us : List CodeUnit) :
    ∃ d, d.mode = .direct ∧
      DecReads u decInit
        ((encUnits u.cfg encInit us).2 ++ flushOut u.cfg (encUnits u.cfg encInit us).1) us d := by
  have hstart : InStep encInit decInit [] := .direct rfl
  obtain ⟨d1, out, lag, hunits, hstep, hlist⟩ := hstart.follows_encUnits (u := u) us
  obtain ⟨d2, hflush, hmode⟩ := hstep.reads_flushOut (u := u)
  have hread := hunits.append hflush
  rw [hlist] at hread
  exact ⟨d2, hmode, hread⟩

/-- Settles O55: the decoder follows the encoder's code units, and the flush brings it level. -/
theorem decodingInvertsEncoding : Obligations.DecodingInvertsEncoding := by
  intro s us
  obtain ⟨e, he, hres, hsetup, hprod⟩ := encAll_eq_encUnits us s
  obtain ⟨d, hmode, hread⟩ := decReads_encoded s.setup us
  have hscan : decScan e.state.setup decInit e.produced = ⟨d, us, e.produced.length, true⟩ := by
    rw [hsetup, hprod]
    exact hread.scan
  obtain ⟨w, hw, hwres, hwprod⟩ := decAll_underflow (bs := e.produced) (s := e.state) (by rw [hscan])
    (by rw [hscan]; exact hmode)
  exact ⟨e, w, he, hres, hw, hwprod.trans (by rw [hscan]), hwres⟩

end Sys2Proof.Machine
end

section
/-! The statements of spec/60_exceptions.md: the causes of `MALFORMED` (R212), a command issued again after
`OVERFLOW` (R221), and the machine that receives no command (R235). -/

namespace Sys2Proof.Machine

/-! ## The causes of `MALFORMED` (R212) -/

/-- What keeps a foreign byte from closing its run, in the order of the tests of R165 to R168: the causes M3, M4
and M5, of which no two hold together. -/
theorem not_closesImplicitly_iff {c : Cfg} {d : DecState} :
    ¬ ClosesImplicitly c d ↔
      c.strict = true ∨ (c.strict = false ∧ d.cnt = 0) ∨
        (c.strict = false ∧ d.cnt ≠ 0 ∧ padOk d = false) := by
  cases hstrict : c.strict with
  | true => simp [ClosesImplicitly, hstrict]
  | false =>
    by_cases hcnt : d.cnt = 0
    · simp [ClosesImplicitly, hcnt]
    · simp [ClosesImplicitly, hstrict, hcnt]

theorem decFlush_eq_malformed_iff {d : DecState} : decFlush d = .fault .malformed ↔ d.mode = .base64 := by
  cases hmode : d.mode with
  | direct =>
    rw [decFlush_direct hmode]
    exact iff_of_false nofun nofun
  | base64 => exact iff_of_true (decFlush_base64 hmode) rfl

/-- Whichever command ends `MALFORMED`, the end makes the records of R215 and no other change. -/
theorem finishDec_decMalformed_of_malformed {x : DecEnd} {s : State}
    (h : (finishDec x s).decRes.status = .malformed) : DecMalformed s (finishDec x s) := by
  rw [(finishDec_status_eq_iff (by decide) s).1 h]
  exact takeFault_decMalformed s

/-! ## A command issued again after `OVERFLOW` (R221) -/

theorem finishEnc_status_eq_iff {x : EncEnd} {st : Status} (hst : st ≠ .ok) (s : State) :
    (finishEnc x s).encRes.status = st ↔ x = .fault st := by
  cases x with
  | ok e out => exact iff_of_false hst.symm nofun
  | fault st' => exact ⟨congrArg EncEnd.fault, EncEnd.fault.inj⟩

/-- An ENC command that ended `OVERFLOW` left `E` and the stream (R211, R219). -/
theorem finishEnc_encFaulted_of_overflow {x : EncEnd} {s : State}
    (h : (finishEnc x s).encRes.status = .overflow) : EncFaulted s (finishEnc x s) .overflow := by
  rw [(finishEnc_status_eq_iff (by decide) s).1 h]
  exact takeFault_encFaulted .overflow s

/-- What R221 calls the result of a command of the unit `u`: two states show the same one, up to the result
fields to which no meaning is given (U6). -/
structure SameResult (u : UnitId) (t1 t2 : State) : Prop where
  enc : t1.enc = t2.enc
  dec : t1.dec = t2.dec
  encOut : t1.encOut = t2.encOut
  decOut : t1.decOut = t2.decOut
  encOutputs : t1.encRes.outputs = t2.encRes.outputs
  decOutputs : t1.decRes.outputs = t2.decRes.outputs
  status : unitStatus u t1 = unitStatus u t2

section Again

variable {s t : State} {st : Status}

/-- One end of an ENC command shows the same result at a state and after a fault outcome met there. -/
theorem finishEnc_sameResult (hframe : EncFrame s t) (hfault : EncFaulted s t st) (x : EncEnd)
    (w : EncWord) (m : Nat) :
    SameResult .enc (finishEnc x (present ⟨.enc w, m⟩ t)) (finishEnc x (present ⟨.enc w, m⟩ s)) := by
  obtain ⟨⟨hdec, hdecRes, hdecOut, -⟩, -⟩ := hframe
  obtain ⟨-, -, hencOut, henc⟩ := hfault
  have hdecOutputs : t.decRes.outputs = s.decRes.outputs := congrArg DecResult.outputs hdecRes
  cases x with
  | ok e out =>
    exact ⟨rfl, hdec, congrArg (· ++ out) hencOut, hdecOut, encResultOf_outputs_draw .ok out _ _,
      hdecOutputs, rfl⟩
  | fault st' => exact ⟨henc, hdec, hencOut, hdecOut, rfl, hdecOutputs, rfl⟩

/-- One end of a DEC command shows the same result at a state and after a fault outcome met there, unless that
one was a `MALFORMED`. -/
theorem finishDec_sameResult (hframe : DecFrame s t) (hfault : DecFaulted s t st) (x : DecEnd)
    (w : DecWord) (m : Nat) :
    SameResult .dec (finishDec x (present ⟨.dec w, m⟩ t)) (finishDec x (present ⟨.dec w, m⟩ s)) := by
  obtain ⟨⟨henc, hencRes, hencOut, -⟩, -⟩ := hframe
  obtain ⟨-, -, -, hdecOut, hdec⟩ := hfault
  have hencOutputs : t.encRes.outputs = s.encRes.outputs := congrArg EncResult.outputs hencRes
  cases x with
  | ok d out =>
    exact ⟨henc, rfl, hencOut, congrArg (· ++ out.toList) hdecOut, hencOutputs,
      (decResultOk_outputs ..).trans (decResultOk_outputs ..).symm, rfl⟩
  | fault st' =>
    exact ⟨henc, congrArg (decAfterFault st') hdec, hencOut, hdecOut, hencOutputs, rfl, rfl⟩

/-- A command that ended `OVERFLOW` at ENC's port wrote only the port's inputs and result (R73, R219). -/
theorem runCommand_enc_overflow {w : EncWord} {n : Nat} (ht : runCommand ⟨.enc w, n⟩ s = .next t)
    (hover : t.encRes.status = .overflow) :
    EncFrame (present ⟨.enc w, n⟩ s) t ∧ EncFaulted (present ⟨.enc w, n⟩ s) t .overflow := by
  cases (runCommand_encWord w n s).symm.trans ht
  obtain ⟨hframe, -⟩ := finishEnc_frame (encCommandEnd s.cfg s.enc w n) (present ⟨.enc w, n⟩ s)
  exact ⟨hframe, finishEnc_encFaulted_of_overflow hover⟩

/-- A word that ended `OVERFLOW` at ENC's port ends there, with any other `space`, as it would have before. -/
theorem runCommand_enc_again {w : EncWord} {n : Nat} (ht : runCommand ⟨.enc w, n⟩ s = .next t)
    (hover : t.encRes.status = .overflow) (m : Nat) :
    ∃ t1 t2, runCommand ⟨.enc w, m⟩ t = .next t1 ∧ runCommand ⟨.enc w, m⟩ s = .next t2 ∧
      SameResult .enc t1 t2 := by
  obtain ⟨hframe, hfault⟩ := runCommand_enc_overflow ht hover
  have hsame := finishEnc_sameResult hframe hfault (encCommandEnd s.cfg s.enc w m) w m
  have hend : encCommandEnd t.cfg t.enc w m = encCommandEnd s.cfg s.enc w m := by
    obtain ⟨-, hsetup, -⟩ := hframe
    obtain ⟨-, -, -, henc⟩ := hfault
    simp only [State.cfg, hsetup, henc, present_setup, present_enc]
  refine ⟨_, _, runCommand_encWord w m t, runCommand_encWord w m s, ?_⟩
  rw [hend]
  exact hsame

/-- A command that ended `OVERFLOW` at DEC's port wrote only the port's inputs and result (R73, R219). -/
theorem runCommand_dec_overflow {w : DecWord} {n : Nat} (ht : runCommand ⟨.dec w, n⟩ s = .next t)
    (hover : t.decRes.status = .overflow) :
    DecFrame (present ⟨.dec w, n⟩ s) t ∧ DecFaulted (present ⟨.dec w, n⟩ s) t .overflow := by
  cases (runCommand_decWord w n s).symm.trans ht
  obtain ⟨hframe, -⟩ := finishDec_frame (decCommandEnd s.cfg s.par s.dec w n) (present ⟨.dec w, n⟩ s)
  exact ⟨hframe, finishDec_decFaulted_of_overflow hover⟩

/-- A word that ended `OVERFLOW` at DEC's port ends there, with any other `space`, as it would have before. -/
theorem runCommand_dec_again {w : DecWord} {n : Nat} (ht : runCommand ⟨.dec w, n⟩ s = .next t)
    (hover : t.decRes.status = .overflow) (m : Nat) :
    ∃ t1 t2, runCommand ⟨.dec w, m⟩ t = .next t1 ∧ runCommand ⟨.dec w, m⟩ s = .next t2 ∧
      SameResult .dec t1 t2 := by
  obtain ⟨hframe, hfault⟩ := runCommand_dec_overflow ht hover
  have hsame := finishDec_sameResult hframe hfault (decCommandEnd s.cfg s.par s.dec w m) w m
  have hend : decCommandEnd t.cfg t.par t.dec w m = decCommandEnd s.cfg s.par s.dec w m := by
    obtain ⟨-, hsetup, -⟩ := hframe
    obtain ⟨-, -, -, -, hdec⟩ := hfault
    simp only [State.cfg, State.par, hsetup, hdec, present_setup, present_dec]
  refine ⟨_, _, runCommand_decWord w m t, runCommand_decWord w m s, ?_⟩
  rw [hend]
  exact hsame

end Again

/-! ## The obligations -/

/-- Settles O36: a `DEC_PUT` is malformed for the bytes of `PutMalformed`, a `DEC_FLUSH` by the mode, and the
one fault outcome makes the records. -/
theorem malformedHasExactlySixCauses : Obligations.MalformedHasExactlySixCauses := by
  refine ⟨fun b s => ?_, fun s => ?_⟩
  · have hclass := decPut_class s.setup s.par s.dec b s.decSpace
    obtain ⟨hframe, -⟩ := finishDec_frame (decPut s.cfg s.par s.dec b s.decSpace) s
    rw [← not_closesImplicitly_iff]
    exact ⟨_, exec_decPut b s, hframe, finishDec_decMalformed_of_malformed,
      (finishDec_status_eq_iff (by decide) s).trans hclass.eq_malformed_iff⟩
  · obtain ⟨hframe, -⟩ := finishDec_frame (decFlush s.dec) s
    exact ⟨_, exec_decFlush s, hframe, finishDec_decMalformed_of_malformed,
      (finishDec_status_eq_iff (by decide) s).trans decFlush_eq_malformed_iff⟩

/-- Settles O42, port by port: a command's end reads the configuration, its unit's state, the word and `space`,
and an `OVERFLOW` left the first two. -/
theorem overflowedCommandCanBeIssuedAgain : Obligations.OverflowedCommandCanBeIssuedAgain := by
  intro w n m s t ht hover
  have hnext : ∀ c : Command, ∃ t', runCommand c t = .next t' := fun c =>
    (runCommand_keeps_setup c t).imp fun _ ⟨ht', _⟩ => ht'
  have hagain : ∃ t1 t2, runCommand ⟨w, m⟩ t = .next t1 ∧ runCommand ⟨w, m⟩ s = .next t2 ∧
      SameResult (Command.unit ⟨w, n⟩) t1 t2 := by
    cases w with
    | enc w => exact runCommand_enc_again ht hover m
    | dec w => exact runCommand_dec_again ht hover m
  obtain ⟨t1, t2, ht1, ht2, h⟩ := hagain
  exact ⟨t1, t2, ht1, ht2, h.enc, h.dec, h.encOut, h.decOut, h.encOutputs, h.decOutputs, h.status, hnext⟩

/-- Settles O7: the step has no command to take. -/
theorem noCommandKeepsTheState : Obligations.NoCommandKeepsTheState := fun _ => step_nil

end Sys2Proof.Machine
end
